-- ==== Sys2Proof/Word.lean ====
section
/-!
DEFINITION. The word types of the block (spec/00_scope.md R7, R8; spec/10_state.md R15, R17).
Every value is unsigned; nothing is sign-extended.
-/
namespace Sys2Proof

/-- A memory byte, a general register, a timer, an 8-bit immediate `kk` (R8). -/
abbrev Byte := BitVec 8

/-- A 16-bit value: an instruction word, `pc`, `I`, a stack entry (R17, R19, R20, R46). -/
abbrev Word := BitVec 16

/-- A 4-bit field (R13 "nibble"): a selector or the sprite height `n`. -/
abbrev Nib := BitVec 4

/-- A general register's index, always a 4-bit field, so always valid (R15). -/
abbrev Reg := BitVec 4

/-- A key's index, its hexadecimal value (R22). -/
abbrev Key := BitVec 4

/-- A 12-bit address field `nnn` (R47). -/
abbrev Addr12 := BitVec 12

/-- VF, the flag register, index 0xF (R16). -/
abbrev regF : Reg := 0xF#4

/-- V0, the offset register of `JP V0, nnn` (R65). -/
abbrev reg0 : Reg := 0x0#4

end Sys2Proof
end

