-- ==== Sys2Proof/Config.lean ====
section
/-!
DEFINITION. What is fixed for one machine (the named parameters of spec/00_scope.md R6) and the free values
(the inputs of an iteration, spec/60_exceptions.md R98).
-/
namespace Sys2Proof.Config

/-- How SHR and SHL with x = 0xF order their two writes to VF (R67, D10). -/
inductive VfShiftDestMode where
  /-- The shift acts on the register as it stands after the flag write. -/
  | sequential
  /-- The shift acts on the value read before the instruction. -/
  | snapshot
  deriving DecidableEq, Repr

/-- The 16 glyphs of 5 bytes each (R33, R34). -/
abbrev GlyphRom := Vector (Vector Byte 5) 16

/-- The named parameters of R6 that a rule of the block reads. They are held in the state and no step writes them
(log 4), so a statement about every state is a statement about every parameter value. -/
structure Params where
  /-- TICK_RATIO: iterations per peripheral tick, at least 1 (R106). -/
  tickRatio : Nat
  /-- GLYPH_ROM (R34). -/
  glyphRom : GlyphRom
  /-- VF_SHIFT_DEST_MODE (R67). -/
  vfShiftDestMode : VfShiftDestMode
  /-- RESET_ZERO_REGS (R29): whether V0..VF and I have a value before their first write. -/
  resetZeroRegs : Bool
  deriving DecidableEq, Repr

/-- The default GLYPH_ROM. PRESUMED (log 6): the spec's table of R34, itself from general knowledge of the family. -/
def defaultGlyphRom : GlyphRom :=
  #v[#v[0xF0, 0x90, 0x90, 0x90, 0xF0],   -- 0
     #v[0x20, 0x60, 0x20, 0x20, 0x70],   -- 1
     #v[0xF0, 0x10, 0xF0, 0x80, 0xF0],   -- 2
     #v[0xF0, 0x10, 0xF0, 0x10, 0xF0],   -- 3
     #v[0x90, 0x90, 0xF0, 0x10, 0x10],   -- 4
     #v[0xF0, 0x80, 0xF0, 0x10, 0xF0],   -- 5
     #v[0xF0, 0x80, 0xF0, 0x90, 0xF0],   -- 6
     #v[0xF0, 0x10, 0x20, 0x40, 0x40],   -- 7
     #v[0xF0, 0x90, 0xF0, 0x90, 0xF0],   -- 8
     #v[0xF0, 0x90, 0xF0, 0x10, 0xF0],   -- 9
     #v[0xF0, 0x90, 0xF0, 0x90, 0x90],   -- A
     #v[0xE0, 0x90, 0xE0, 0x90, 0xE0],   -- B
     #v[0xF0, 0x80, 0x80, 0x80, 0xF0],   -- C
     #v[0xE0, 0x90, 0x90, 0x90, 0xE0],   -- D
     #v[0xF0, 0x80, 0xF0, 0x80, 0xF0],   -- E
     #v[0xF0, 0x80, 0xF0, 0x80, 0x80]]   -- F

/-- The defaults the spec names (R6; log 5, log 6). -/
def Params.default : Params where
  tickRatio := 8
  glyphRom := defaultGlyphRom
  vfShiftDestMode := .sequential
  resetZeroRegs := true

/-- The inputs of one iteration (R98). None of them is state of the block. -/
structure Input where
  /-- input.stop: the host's termination signal (R101). -/
  stop : Bool
  /-- input.keys: the poll's 16 key states (R102). -/
  keys : Vector Bool 16
  /-- input.keychoice: which newly-pressed key ends a wait (R105); read through `Machine.chosenKey` (log 2). -/
  keychoice : Key
  /-- input.random: the random byte of an RND executed in this iteration (R79). -/
  random : Byte
  /-- input.collision: the display's answer to a Draw emitted in this iteration (R89). -/
  collision : Bool
  deriving DecidableEq, Repr, Inhabited

/-- FREE VALUE (log 1): what the host answers in the n-th iteration when no input record stands in the state for it.
It has no body: nothing constrains any of the five inputs (R98). -/
opaque hostInput : Nat → Input

end Sys2Proof.Config
end

