-- ==== Sys2Proof/Syntax.lean ====
section
/-!
DEFINITION. The instruction set: one constructor per row of spec/opcode_table.json (spec/30_encoding.md R49, R50).
The operands are the fields of R47. UNRECOGNISED words (R51) are no instruction: the decoder reports them by name.
-/
namespace Sys2Proof

/-- The 34 instructions, in the table's order. -/
inductive Instr where
  /-- 00E0 CLS: clear display (R88). -/
  | cls
  /-- 00EE RET: return from subroutine (R58). -/
  | ret
  /-- 1nnn JP nnn: jump (R59). -/
  | jp (nnn : Addr12)
  /-- 2nnn CALL nnn: call subroutine (R60). -/
  | call (nnn : Addr12)
  /-- 3xkk SE Vx, kk: skip if equal to immediate (R61). -/
  | seVxKk (x : Reg) (kk : Byte)
  /-- 4xkk SNE Vx, kk: skip if not equal to immediate (R62). -/
  | sneVxKk (x : Reg) (kk : Byte)
  /-- 5xy0 SE Vx, Vy: skip if registers equal (R63). -/
  | seVxVy (x y : Reg)
  /-- 6xkk LD Vx, kk: load immediate (R68). -/
  | ldVxKk (x : Reg) (kk : Byte)
  /-- 7xkk ADD Vx, kk: add immediate, no flag (R69). -/
  | addVxKk (x : Reg) (kk : Byte)
  /-- 8xy0 LD Vx, Vy: copy register (R70). -/
  | ldVxVy (x y : Reg)
  /-- 8xy1 OR Vx, Vy (R71). -/
  | orVxVy (x y : Reg)
  /-- 8xy2 AND Vx, Vy (R72). -/
  | andVxVy (x y : Reg)
  /-- 8xy3 XOR Vx, Vy (R73). -/
  | xorVxVy (x y : Reg)
  /-- 8xy4 ADD Vx, Vy: add with carry flag (R74). -/
  | addVxVy (x y : Reg)
  /-- 8xy5 SUB Vx, Vy: subtract with borrow flag (R75). -/
  | subVxVy (x y : Reg)
  /-- 8xy6 SHR Vx: shift right by one; `y` is encoded but ignored (R76). -/
  | shr (x y : Reg)
  /-- 8xy7 SUBN Vx, Vy: reverse subtract with borrow flag (R77). -/
  | subn (x y : Reg)
  /-- 8xyE SHL Vx: shift left by one; `y` is encoded but ignored (R78). -/
  | shl (x y : Reg)
  /-- 9xy0 SNE Vx, Vy: skip if registers differ (R64). -/
  | sneVxVy (x y : Reg)
  /-- Annn LD I, nnn: set index register (R81). -/
  | ldINnn (nnn : Addr12)
  /-- Bnnn JP V0, nnn: jump with offset (R65). -/
  | jpV0 (nnn : Addr12)
  /-- Cxkk RND Vx, kk: random byte masked (R79). -/
  | rnd (x : Reg) (kk : Byte)
  /-- Dxyn DRW Vx, Vy, n: draw sprite (R89). -/
  | drw (x y : Reg) (n : Nib)
  /-- Ex9E SKP Vx: skip if key pressed (R92). -/
  | skp (x : Reg)
  /-- ExA1 SKNP Vx: skip if key not pressed (R93). -/
  | sknp (x : Reg)
  /-- Fx07 LD Vx, DT: read delay timer (R94). -/
  | ldVxDt (x : Reg)
  /-- Fx0A LD Vx, K: wait for a key press (R95). -/
  | ldVxK (x : Reg)
  /-- Fx15 LD DT, Vx: set delay timer (R96). -/
  | ldDtVx (x : Reg)
  /-- Fx18 LD ST, Vx: set sound timer (R97). -/
  | ldStVx (x : Reg)
  /-- Fx1E ADD I, Vx: add register to index (R82). -/
  | addIVx (x : Reg)
  /-- Fx29 LD F, Vx: point I at the glyph of a digit (R83). -/
  | ldFVx (x : Reg)
  /-- Fx33 LD B, Vx: store decimal digits (R84). -/
  | ldBVx (x : Reg)
  /-- Fx55 LD [I], Vx: store registers V0..Vx (R85). -/
  | ldMemVx (x : Reg)
  /-- Fx65 LD Vx, [I]: load registers V0..Vx (R86). -/
  | ldVxMem (x : Reg)
  deriving DecidableEq, Repr

end Sys2Proof
end

