-- ==== Sys2Proof/WellFormed.lean ====
section
/-!
DEFINITION. Which terms are well-formed. An instruction's bounds are in its operand types, so every instruction is
well-formed (R15, R47); the checks that can fail are on the parameters (R6) and on a program image (R35).
-/
namespace Sys2Proof

/-- Every value of every field is a valid operand: register indexes are 4-bit fields and every index names a register
(R15), immediates and addresses are zero-extended fields of their full range (R47), and no relation between fields is
asked for. The bounds are the operand types', so no instruction term is ill-formed. -/
def Instr.wellFormed (_ : Instr) : Bool := true

/-- TICK_RATIO is a natural number of at least 1 (R6). The other parameters' bounds are in their types. -/
def Config.Params.wellFormed (p : Config.Params) : Bool := decide (1 ≤ p.tickRatio)

/-- The reference display's sizes are natural numbers of at least 1 (R6). -/
def displaySizeWellFormed (w h : Nat) : Bool := decide (1 ≤ w ∧ 1 ≤ h)

/-- The single size check of the program loader: a program of length L loads unless 512 + L >= 4096 (R35). -/
def imageWellFormed (image : List Byte) : Bool := decide (512 + image.length < 4096)

end Sys2Proof
end

