-- ==== Sys2Proof/Decode.lean ====
section
/-!
DEFINITION. The decoder (spec/30_encoding.md R46 to R53) and, after it, the encoder and the opcode table's
mask and match words (spec/opcode_table.json).
-/
namespace Sys2Proof

/-! ## Fields -/

/-- The field extractor of R48: `count` nibbles starting `offset` nibbles from the low end. -/
def field (w : Word) (count offset : Nat) : BitVec (4 * count) := w.extractLsb' (4 * offset) (4 * count)

/-- The opcode family, w[15:12] (R47). -/
def fieldOp (w : Word) : Nib := field w 1 3
/-- The first register operand, w[11:8] (R47). -/
def fieldX (w : Word) : Reg := field w 1 2
/-- The second register operand, w[7:4] (R47). -/
def fieldY (w : Word) : Reg := field w 1 1
/-- The sprite height or low selector, w[3:0] (R47). -/
def fieldN (w : Word) : Nib := field w 1 0
/-- The 8-bit immediate or low-byte selector, w[7:0] (R47). -/
def fieldKk (w : Word) : Byte := field w 2 0
/-- The 12-bit address, w[11:0] (R47). -/
def fieldNnn (w : Word) : Addr12 := field w 3 0

/-! ## Decoding -/

/-- Why bytes are no instruction. -/
inductive DecodeError where
  /-- The word matches no row of the table (R51); `Machine.execUnrecognised` gives what executing it does (R52). -/
  | unrecognised (w : Word)
  /-- Fewer than two bytes: no word (R46). The run loop never decodes so few (R103). -/
  | truncated
  deriving DecidableEq, Repr

/-- Family 0x0: two exact words; every other is UNRECOGNISED, 0x0000 among them (R49, R51). -/
def decodeFamily0 (w : Word) : Except DecodeError Instr :=
  if w = 0x00E0#16 then .ok .cls
  else if w = 0x00EE#16 then .ok .ret
  else .error (.unrecognised w)

/-- Families 0x5 and 0x9: the low nibble must be 0 (R49, D11). -/
def decodeExactLow (w : Word) (i : Instr) : Except DecodeError Instr :=
  if fieldN w = 0x0#4 then .ok i else .error (.unrecognised w)

/-- Family 0x8, selected by the low nibble (R49). -/
def decodeFamily8 (w : Word) : Except DecodeError Instr :=
  match fieldN w with
  | 0x0#4 => .ok (.ldVxVy (fieldX w) (fieldY w))
  | 0x1#4 => .ok (.orVxVy (fieldX w) (fieldY w))
  | 0x2#4 => .ok (.andVxVy (fieldX w) (fieldY w))
  | 0x3#4 => .ok (.xorVxVy (fieldX w) (fieldY w))
  | 0x4#4 => .ok (.addVxVy (fieldX w) (fieldY w))
  | 0x5#4 => .ok (.subVxVy (fieldX w) (fieldY w))
  | 0x6#4 => .ok (.shr (fieldX w) (fieldY w))
  | 0x7#4 => .ok (.subn (fieldX w) (fieldY w))
  | 0xE#4 => .ok (.shl (fieldX w) (fieldY w))
  | _ => .error (.unrecognised w)

/-- Family 0xE, selected by the low byte (R49). -/
def decodeFamilyE (w : Word) : Except DecodeError Instr :=
  match fieldKk w with
  | 0x9E#8 => .ok (.skp (fieldX w))
  | 0xA1#8 => .ok (.sknp (fieldX w))
  | _ => .error (.unrecognised w)

/-- Family 0xF, selected by the low byte (R49). -/
def decodeFamilyF (w : Word) : Except DecodeError Instr :=
  match fieldKk w with
  | 0x07#8 => .ok (.ldVxDt (fieldX w))
  | 0x0A#8 => .ok (.ldVxK (fieldX w))
  | 0x15#8 => .ok (.ldDtVx (fieldX w))
  | 0x18#8 => .ok (.ldStVx (fieldX w))
  | 0x1E#8 => .ok (.addIVx (fieldX w))
  | 0x29#8 => .ok (.ldFVx (fieldX w))
  | 0x33#8 => .ok (.ldBVx (fieldX w))
  | 0x55#8 => .ok (.ldMemVx (fieldX w))
  | 0x65#8 => .ok (.ldVxMem (fieldX w))
  | _ => .error (.unrecognised w)

/-- `Decode(w)` of R49, total over all 65536 words: one instruction of the table, or UNRECOGNISED by name. -/
def decode (w : Word) : Except DecodeError Instr :=
  match fieldOp w with
  | 0x0#4 => decodeFamily0 w
  | 0x1#4 => .ok (.jp (fieldNnn w))
  | 0x2#4 => .ok (.call (fieldNnn w))
  | 0x3#4 => .ok (.seVxKk (fieldX w) (fieldKk w))
  | 0x4#4 => .ok (.sneVxKk (fieldX w) (fieldKk w))
  | 0x5#4 => decodeExactLow w (.seVxVy (fieldX w) (fieldY w))
  | 0x6#4 => .ok (.ldVxKk (fieldX w) (fieldKk w))
  | 0x7#4 => .ok (.addVxKk (fieldX w) (fieldKk w))
  | 0x8#4 => decodeFamily8 w
  | 0x9#4 => decodeExactLow w (.sneVxVy (fieldX w) (fieldY w))
  | 0xA#4 => .ok (.ldINnn (fieldNnn w))
  | 0xB#4 => .ok (.jpV0 (fieldNnn w))
  | 0xC#4 => .ok (.rnd (fieldX w) (fieldKk w))
  | 0xD#4 => .ok (.drw (fieldX w) (fieldY w) (fieldN w))
  | 0xE#4 => decodeFamilyE w
  | 0xF#4 => decodeFamilyF w
  | _ => .error (.unrecognised w)

/-! ## Words in memory -/

/-- The big-endian word of two bytes, the one at the lower address first (R36, D1; log 22). -/
def wordOfBytes (hi lo : Byte) : Word := hi ++ lo

/-- The byte at the lower address of a word's two: its high byte (R36). -/
def highByte (w : Word) : Byte := w.extractLsb' 8 8

/-- The byte at the higher address of a word's two: its low byte (R36). -/
def lowByte (w : Word) : Byte := w.extractLsb' 0 8

/-- The decoder over any bytes: every instruction is two bytes (R46, R53); the answer holds the bytes left over. -/
def decodeBytes : List Byte → Except DecodeError (Instr × List Byte)
  | hi :: lo :: rest =>
    match decode (wordOfBytes hi lo) with
    | .ok i => .ok (i, rest)
    | .error e => .error e
  | _ => .error .truncated

/-- The bytes of an instruction whose table bits are `w`, laid out as the hardware stores them. Every row has 16 bits
and one word, so only the low `nbits` (at most 16) bits of `w` matter and the rest are 0. -/
def tableWordBytes (nbits w : Nat) : List Byte :=
  let word : Word := BitVec.ofNat 16 (w % 2 ^ nbits)
  [highByte word, lowByte word]

/-- What this decoder reads from a table row's word, with the bits numbered as spec/opcode_table.json numbers them. -/
def decodeTableWord (nbits w : Nat) : Option Instr :=
  match decodeBytes (tableWordBytes nbits w) with
  | .ok (i, _) => some i
  | .error _ => none

/-! ## Encoding -/

/-- A word of the formats `xkk` (R46). -/
def wordXkk (op : Nib) (x : Reg) (kk : Byte) : Word := op ++ (x ++ kk)

/-- A word of the formats `xy` and `xyn` (R46). -/
def wordXyn (op : Nib) (x y : Reg) (n : Nib) : Word := op ++ (x ++ (y ++ n))

/-- A word of the format `nnn` (R46). -/
def wordNnn (op : Nib) (nnn : Addr12) : Word := op ++ nnn

/-- The word of an instruction, from the patterns of R49 and R54. SHR and SHL keep their ignored y field. -/
def encode : Instr → Word
  | .cls => 0x00E0#16
  | .ret => 0x00EE#16
  | .jp nnn => wordNnn 0x1#4 nnn
  | .call nnn => wordNnn 0x2#4 nnn
  | .seVxKk x kk => wordXkk 0x3#4 x kk
  | .sneVxKk x kk => wordXkk 0x4#4 x kk
  | .seVxVy x y => wordXyn 0x5#4 x y 0x0#4
  | .ldVxKk x kk => wordXkk 0x6#4 x kk
  | .addVxKk x kk => wordXkk 0x7#4 x kk
  | .ldVxVy x y => wordXyn 0x8#4 x y 0x0#4
  | .orVxVy x y => wordXyn 0x8#4 x y 0x1#4
  | .andVxVy x y => wordXyn 0x8#4 x y 0x2#4
  | .xorVxVy x y => wordXyn 0x8#4 x y 0x3#4
  | .addVxVy x y => wordXyn 0x8#4 x y 0x4#4
  | .subVxVy x y => wordXyn 0x8#4 x y 0x5#4
  | .shr x y => wordXyn 0x8#4 x y 0x6#4
  | .subn x y => wordXyn 0x8#4 x y 0x7#4
  | .shl x y => wordXyn 0x8#4 x y 0xE#4
  | .sneVxVy x y => wordXyn 0x9#4 x y 0x0#4
  | .ldINnn nnn => wordNnn 0xA#4 nnn
  | .jpV0 nnn => wordNnn 0xB#4 nnn
  | .rnd x kk => wordXkk 0xC#4 x kk
  | .drw x y n => wordXyn 0xD#4 x y n
  | .skp x => wordXkk 0xE#4 x 0x9E#8
  | .sknp x => wordXkk 0xE#4 x 0xA1#8
  | .ldVxDt x => wordXkk 0xF#4 x 0x07#8
  | .ldVxK x => wordXkk 0xF#4 x 0x0A#8
  | .ldDtVx x => wordXkk 0xF#4 x 0x15#8
  | .ldStVx x => wordXkk 0xF#4 x 0x18#8
  | .addIVx x => wordXkk 0xF#4 x 0x1E#8
  | .ldFVx x => wordXkk 0xF#4 x 0x29#8
  | .ldBVx x => wordXkk 0xF#4 x 0x33#8
  | .ldMemVx x => wordXkk 0xF#4 x 0x55#8
  | .ldVxMem x => wordXkk 0xF#4 x 0x65#8

/-! ## The opcode table's masks and matches -/

/-- The mask and the match word of an instruction's row in spec/opcode_table.json. -/
def tableRow : Instr → Word × Word
  | .cls => (0xFFFF, 0x00E0)
  | .ret => (0xFFFF, 0x00EE)
  | .jp _ => (0xF000, 0x1000)
  | .call _ => (0xF000, 0x2000)
  | .seVxKk _ _ => (0xF000, 0x3000)
  | .sneVxKk _ _ => (0xF000, 0x4000)
  | .seVxVy _ _ => (0xF00F, 0x5000)
  | .ldVxKk _ _ => (0xF000, 0x6000)
  | .addVxKk _ _ => (0xF000, 0x7000)
  | .ldVxVy _ _ => (0xF00F, 0x8000)
  | .orVxVy _ _ => (0xF00F, 0x8001)
  | .andVxVy _ _ => (0xF00F, 0x8002)
  | .xorVxVy _ _ => (0xF00F, 0x8003)
  | .addVxVy _ _ => (0xF00F, 0x8004)
  | .subVxVy _ _ => (0xF00F, 0x8005)
  | .shr _ _ => (0xF00F, 0x8006)
  | .subn _ _ => (0xF00F, 0x8007)
  | .shl _ _ => (0xF00F, 0x800E)
  | .sneVxVy _ _ => (0xF00F, 0x9000)
  | .ldINnn _ => (0xF000, 0xA000)
  | .jpV0 _ => (0xF000, 0xB000)
  | .rnd _ _ => (0xF000, 0xC000)
  | .drw _ _ _ => (0xF000, 0xD000)
  | .skp _ => (0xF0FF, 0xE09E)
  | .sknp _ => (0xF0FF, 0xE0A1)
  | .ldVxDt _ => (0xF0FF, 0xF007)
  | .ldVxK _ => (0xF0FF, 0xF00A)
  | .ldDtVx _ => (0xF0FF, 0xF015)
  | .ldStVx _ => (0xF0FF, 0xF018)
  | .addIVx _ => (0xF0FF, 0xF01E)
  | .ldFVx _ => (0xF0FF, 0xF029)
  | .ldBVx _ => (0xF0FF, 0xF033)
  | .ldMemVx _ => (0xF0FF, 0xF055)
  | .ldVxMem _ => (0xF0FF, 0xF065)

/-- Word `w` matches the opcode-table row of instruction `i`. -/
def matchesRow (w : Word) (i : Instr) : Bool := w &&& (tableRow i).1 == (tableRow i).2

end Sys2Proof
end

