-- ==== Sys2Proof/Machine/State.lean ====
section
/-!
DEFINITION. The state of the block as plain data (spec/10_state.md R15 to R30), the reasons a step can stop, and the
state after construction (spec/70_reset_and_hazards.md R120).
-/
namespace Sys2Proof.Machine

/-- The execution mode (R24): the only explicit state machine of the core (R105). -/
inductive Mode where
  | running
  /-- Suspended until a key is newly pressed; `t` is the target register. -/
  | awaitingKey (t : Reg)
  deriving DecidableEq, Repr

/-- Why a run was halted: a proper end of a run (R26, R109, R112). -/
inductive HaltReason where
  /-- HostStop: the host's termination signal (R101). -/
  | hostStop
  /-- PcOutOfRange: a Running iteration with `pc` at 4096 or more; the `pc` is recorded (R103, R109). -/
  | pcOutOfRange (pc : Word)
  deriving DecidableEq, Repr

/-- A register that UninitialisedRead can name (R29). -/
inductive RegName where
  | v (r : Reg)
  | i
  deriving DecidableEq, Repr

/-- The codes of a Faulted status with the information R109 records. -/
inductive FaultCode where
  /-- CALL at `a` with SP = 16 (R57, R60). -/
  | stackOverflow (a : Word)
  /-- RET at `a` with SP = 0 (R57, R58). -/
  | stackUnderflow (a : Word)
  /-- A fetch with `pc` = 4095 (R103). -/
  | fetchOutOfRange (pc : Word)
  /-- An access of `n` bytes at `I` that passes address 4095 (R38, R39). -/
  | memoryOutOfRange (addr : Word) (n : Nat)
  /-- SKP or SKNP with a register value above 15 (R91). -/
  | keyIndexOutOfRange (value : Byte)
  /-- A read of V or I before its first write, when RESET_ZERO_REGS is false (R29). -/
  | uninitialisedRead (r : RegName)
  deriving DecidableEq, Repr

/-- The run status (R26). Halted and Faulted are quiescent (R112). -/
inductive Status where
  | live
  | halted (r : HaltReason)
  | faulted (f : FaultCode)
  deriving DecidableEq, Repr

/-- The output events of the block, its only outputs (R30). -/
inductive Event where
  | clear
  /-- The sprite bytes by value and the unreduced origin (R87, R89). -/
  | draw (bytes : List Byte) (x y : Byte)
  | refresh
  | play
  | pause
  /-- The address and the word of an UNRECOGNISED word (R52). -/
  | diagnostic (a w : Word)
  deriving DecidableEq, Repr

/-- Memory: (address, byte) pairs, addresses strictly rising, no entry equal to what an unlisted address reads as
(its reset content, `Machine.resetByte`; log 14). The operations and the canonical form are in Machine/Ops.lean. -/
abbrev Memory := List Host.Cell

/-- Everything the spec gives the machine (R28), its parameters (R6), and three fields of the model's own: the event
list, the coming input records, and the count that indexes the free host input. -/
structure State where
  /-- The named parameters (R6); no step writes them. -/
  params : Config.Params
  /-- mem[0..4095] (R31). -/
  mem : Memory
  /-- V0..VF (R15). -/
  v : Vector Byte 16
  /-- The written bits of V0..VF (R29). -/
  vWritten : Vector Bool 16
  /-- The index register I (R19). -/
  i : Word
  /-- The written bit of I (R29). -/
  iWritten : Bool
  /-- The program counter (R17). -/
  pc : Word
  /-- stack[0..15] (R20). -/
  stack : Vector Word 16
  /-- SP, the number of stack entries in use, 0 to 16 (R20; log 21). -/
  sp : Fin 17
  /-- The delay timer DT (R21). -/
  dt : Byte
  /-- The sound timer ST (R21). -/
  st : Byte
  /-- keys[0..15], this iteration's poll (R22). -/
  keys : Vector Bool 16
  /-- prevKeys[0..15], the previous poll (R23). -/
  prevKeys : Vector Bool 16
  /-- Running or AwaitingKey(t) (R24). -/
  mode : Mode
  /-- Iterations since the last peripheral tick (R25). -/
  subtick : Nat
  /-- The run status (R26). -/
  status : Status
  /-- MODEL'S OWN (log 11): the event list, in the order emitted (R30). -/
  events : List Event
  /-- MODEL'S OWN (log 1): the input records of the coming iterations, the next one first (R98, R119). -/
  inputs : List Config.Input
  /-- MODEL'S OWN (log 1): how many iterations have taken their input; the index of the free host input. -/
  iteration : Nat
  deriving DecidableEq, Repr

/-- Why a step answers no next state. Only `Machine.step` raises one, and only from a quiescent status: no instruction's
meaning does. Both are safe: the spec gives no iteration from such a state (R112). -/
inductive Fault where
  /-- Raised by `step` from Halted(r): the run has properly ended (R112, R119). Safe. -/
  | runHalted (r : HaltReason)
  /-- Raised by `step` from Faulted(f): the run has no result and its error is reported (R111, R112). Safe. -/
  | runFaulted (f : FaultCode)
  deriving DecidableEq, Repr

/-- Why the model gives a case no meaning. -/
inductive Refusal where
  /-- Raised by an arm of `exec` whose instruction has no meaning yet; none is left. Safe. -/
  | notModelled (mnemonic : String)
  /-- Raised by `Machine.boot` for a program with 512 + L >= 4096: no machine is constructed (R35, D37). Safe. -/
  | programTooLarge (length : Nat)
  deriving DecidableEq, Repr

/-- A step's answer: a next state, a stop of the run, or a refusal. -/
abbrev Result := Host.Outcome State Fault Refusal

/-- Steps 1 to 3 of R120: the block as constructed with parameters `p`, before its program is loaded. Memory lists
nothing: every byte holds its reset content, zero or a glyph byte of `p` (R32, R33). The zeros of V0..VF, I, DT, ST and
the stack entries are the spec's own decision D19 (log 3). -/
def State.construct (p : Config.Params) : State where
  params := p
  mem := []
  v := Vector.replicate 16 0
  vWritten := Vector.replicate 16 false
  i := 0
  iWritten := false
  pc := 512
  stack := Vector.replicate 16 0
  sp := 0
  dt := 0
  st := 0
  keys := Vector.replicate 16 false
  prevKeys := Vector.replicate 16 false
  mode := .running
  subtick := 0
  status := .live
  events := []
  inputs := []
  iteration := 0

/-- The machine right after reset: constructed with the spec's default parameters (R6, R120), and no program in it. -/
def State.reset : State := State.construct Config.Params.default

end Sys2Proof.Machine
end

