-- ==== Sys2Proof/Machine/Ops.lean ====
section
/-!
DEFINITION. The named operations over registers, memory, stack, events and status: spec/10_state.md R15 to R30,
spec/20_memory.md R31 to R45, spec/40_flow_stack.md R56 and R57, spec/60_exceptions.md R111.
-/
namespace Sys2Proof.Machine

/-! ## Raising a fault -/

/-- `status <- s`. -/
def State.setStatus (s : State) (x : Status) : State := { s with status := x }

/-- `raise F(info)` (R111): status becomes Faulted(F) with its info and nothing else changes, so the state shows
pc = a, the address of the faulting instruction. The block has no trap entry and no return from one (R112): this is
its whole exception mechanism. -/
def raise (f : FaultCode) (s : State) : Result := .next (s.setStatus (.faulted f))

/-! ## General registers, index register, timers, program counter -/

/-- V[r] (R9, R15). -/
def State.getV (s : State) (r : Reg) : Byte := s.v[r.toNat]'(r.isLt)

/-- V[r] <- b, which sets the register's written bit (R9, R29). -/
def State.setV (s : State) (r : Reg) (b : Byte) : State :=
  { s with v := s.v.set r.toNat b r.isLt, vWritten := s.vWritten.set r.toNat true r.isLt }

/-- V[r] has a value: RESET_ZERO_REGS is true or V[r] has been written (R29). -/
def State.vReadable (s : State) (r : Reg) : Bool := s.params.resetZeroRegs || s.vWritten[r.toNat]'(r.isLt)

/-- I has a value: RESET_ZERO_REGS is true or I has been written (R29). -/
def State.iReadable (s : State) : Bool := s.params.resetZeroRegs || s.iWritten

/-- I <- w, which sets the written bit of I (R29). -/
def State.setI (s : State) (w : Word) : State := { s with i := w, iWritten := true }

/-- DT <- b. -/
def State.setDt (s : State) (b : Byte) : State := { s with dt := b }

/-- ST <- b. -/
def State.setSt (s : State) (b : Byte) : State := { s with st := b }

/-- mode <- m. -/
def State.setMode (s : State) (m : Mode) : State := { s with mode := m }

/-- pc <- target: an explicit transfer (R56). -/
def State.jump (s : State) (target : Word) : State := { s with pc := target }

/-- pc <- a + 2: the default advance (R10, R56). -/
def State.advance (s : State) : State := { s with pc := s.pc + 2 }

/-- pc <- a + 4 when the condition holds, else a + 2: the skips (R56). -/
def State.skipIf (s : State) (c : Bool) : State := { s with pc := if c then s.pc + 4 else s.pc + 2 }

/-- emit E: events are kept in the order emitted (R9, R30). -/
def State.emit (s : State) (e : Event) : State := { s with events := s.events ++ [e] }

/-! ## Memory -/

/-- The number of addresses (R31). -/
def memSize : Nat := 4096

/-- What a byte holds after construction, and so what an unlisted address reads as: GLYPH_ROM[d][r] at 16*d + r for the
80 glyph bytes, and 0 everywhere else (R32, R33, R43, R120). -/
def resetByte (rom : Config.GlyphRom) (a : Nat) : Byte :=
  if h : a < 256 ∧ a % 16 < 5 then (rom[a / 16]'(by omega))[a % 16]'h.2 else 0

/-- The byte at address `a` of a canonical memory whose unlisted addresses hold `d`. -/
def Memory.read (d : Nat → Byte) : Memory → Nat → Byte
  | [], a => d a
  | (k, c) :: m, a => if a < k then d a else if a = k then c else Memory.read d m a

/-- `b` written at address `a`, the canonical form kept: writing what an unlisted address holds drops the entry. -/
def Memory.write (d : Nat → Byte) : Memory → Nat → Byte → Memory
  | [], a, b => if b = d a then [] else [(a, b)]
  | (k, c) :: m, a, b =>
    if a < k then (if b = d a then (k, c) :: m else (a, b) :: (k, c) :: m)
    else if a = k then (if b = d a then m else (a, b) :: m)
    else (k, c) :: Memory.write d m a b

/-- The canonical form: addresses strictly rising, each one exists, and no entry is what an unlisted address holds. -/
abbrev Memory.wf (d : Nat → Byte) (m : Memory) : Prop :=
  m.Pairwise (fun p q => p.1 < q.1) ∧ ∀ c ∈ m, c.1 < memSize ∧ c.2 ≠ d c.1

/-- mem[a] (R9). -/
def State.readByte (s : State) (a : Nat) : Byte := Memory.read (resetByte s.params.glyphRom) s.mem a

/-- mem[a] <- b. -/
def State.writeByte (s : State) (a : Nat) (b : Byte) : State :=
  { s with mem := Memory.write (resetByte s.params.glyphRom) s.mem a b }

/-- The state's memory is in canonical form. -/
abbrev State.memWf (s : State) : Prop := Memory.wf (resetByte s.params.glyphRom) s.mem

/-- The `n` bytes at a, a+1, ..., low address first. -/
def State.readBytes (s : State) (a n : Nat) : List Byte := (List.range n).map fun k => s.readByte (a + k)

/-- The bytes of the list written to a, a+1, ..., low address first. -/
def State.writeBytes (s : State) (a : Nat) : List Byte → State
  | [] => s
  | b :: bs => State.writeBytes (s.writeByte a b) (a + 1) bs

/-- The bounds check of R38 and R39: an access of n > 0 bytes whose last address is above 4095. The sum is exact. -/
def pastEnd (addr : Word) (n : Nat) : Bool := decide (0 < n ∧ 4095 < addr.toNat + n - 1)

/-- `let bytes = MemRead(addr, n)`, then `k bytes` (R38). -/
def memRead (addr : Word) (n : Nat) (s : State) (k : List Byte → Result) : Result :=
  if pastEnd addr n then raise (.memoryOutOfRange addr n) s else k (s.readBytes addr.toNat n)

/-- `MemWrite(addr, n, bytes)` with n the length of the list, then `k` on the state after it: all n addresses are
checked before any byte is written (R39). -/
def memWrite (addr : Word) (bytes : List Byte) (s : State) (k : State → Result) : Result :=
  if pastEnd addr bytes.length then raise (.memoryOutOfRange addr bytes.length) s
  else k (s.writeBytes addr.toNat bytes)

/-- `Fetch(pc)`: the big-endian word at pc (R36, R37). -/
def State.fetch (s : State) : Word := wordOfBytes (s.readByte s.pc.toNat) (s.readByte (s.pc.toNat + 1))

/-! ## The call-stack controller -/

/-- `Push(v)`, then `k` on the state after it; StackOverflow(a) when SP = 16, before any change (R57). -/
def push (v : Word) (s : State) (k : State → Result) : Result :=
  if h : s.sp.val < 16 then
    k { s with stack := s.stack.set s.sp.val v h, sp := ⟨s.sp.val + 1, by omega⟩ }
  else raise (.stackOverflow s.pc) s

/-- `target <- Pop()`, then `k target` on the state after it; StackUnderflow(a) when SP = 0, before any change. The
entry popped stays in stack[SP] (R57, R58). -/
def pop (s : State) (k : Word → State → Result) : Result :=
  if h : s.sp.val = 0 then raise (.stackUnderflow s.pc) s
  else
    have : s.sp.val < 17 := s.sp.isLt
    k (s.stack[s.sp.val - 1]'(by omega)) { s with sp := ⟨s.sp.val - 1, by omega⟩ }

/-! ## The inputs of the current iteration -/

/-- The input record of the current iteration (R98): the next one that stands in the state, and beyond those the free
host input (log 1). -/
def State.input (s : State) : Config.Input := s.inputs.headD (Config.hostInput s.iteration)

/-- The iteration is over: its input record is used up. -/
def State.nextInput (s : State) : State := { s with inputs := s.inputs.tail, iteration := s.iteration + 1 }

end Sys2Proof.Machine
end

