-- ==== Sys2Proof/Machine/Flags.lean ====
section
/-!
DEFINITION. The values VF receives as the flag register (spec/10_state.md R16). The block has no other flag.
-/
namespace Sys2Proof.Machine

/-- A boolean used as a number: 1 for true, 0 for false (R8). -/
def flagByte (c : Bool) : Byte := if c then 1 else 0

/-- The carry of an 8-bit addition: the exact sum is 256 or more (R74). -/
def carryOf (p q : Byte) : Bool := decide (256 ≤ p.toNat + q.toNat)

/-- No borrow in `p - q`: p >= q (R75, R77). -/
def noBorrow (p q : Byte) : Bool := decide (q.toNat ≤ p.toNat)

/-- The bit SHR shifts out: bit 0 (R76). -/
def lowBit (p : Byte) : Bool := p.getLsbD 0

/-- The bit SHL shifts out: bit 7 (R78). -/
def highBit (p : Byte) : Bool := p.getLsbD 7

/-- VF <- c (R16). -/
def State.setFlag (s : State) (c : Bool) : State := s.setV regF (flagByte c)

/-- The two writes of SHR and SHL: VF receives the bit shifted out, then V[x] the shifted value. With x = 0xF the
parameter VF_SHIFT_DEST_MODE says whether the value shifted is the register after the flag write or the one read
before the instruction (R67, R76, R78). -/
def shiftWrites (x : Reg) (p : Byte) (out : Bool) (shift : Byte → Byte) (s : State) : State :=
  let flagged := s.setFlag out
  let source := match s.params.vfShiftDestMode with
    | .sequential => flagged.getV x
    | .snapshot => p
  flagged.setV x (shift source)

end Sys2Proof.Machine
end

