-- ==== Sys2Proof/Machine/Operands.lean ====
section
/-!
DEFINITION. Reading an instruction's operands: the register operands V[x], V[y], V0..Vx and I, each with the
UninitialisedRead check that comes before every other check of the instruction (spec/10_state.md R29,
spec/60_exceptions.md R113), and the widening of a field (spec/30_encoding.md R47).
-/
namespace Sys2Proof.Machine

/-- `let p = V[r]`, then `k p`; UninitialisedRead when V[r] has no value (R29). -/
def withV (r : Reg) (s : State) (k : Byte → Result) : Result :=
  if s.vReadable r then k (s.getV r) else raise (.uninitialisedRead (.v r)) s

/-- The value of I, then `k` of it; UninitialisedRead when I has no value (R29). -/
def withI (s : State) (k : Word → Result) : Result :=
  if s.iReadable then k s.i else raise (.uninitialisedRead .i) s

/-- The registers V0..Vx, the operand of the block store (R85). -/
def regsTo (x : Reg) : List Reg := (List.range (x.toNat + 1)).map (BitVec.ofNat 4)

/-- The values of several registers, then `k` of them; UninitialisedRead names the first without a value (R29). -/
def withVs (rs : List Reg) (s : State) (k : List Byte → Result) : Result :=
  match rs.find? (fun r => !s.vReadable r) with
  | some r => raise (.uninitialisedRead (.v r)) s
  | none => k (rs.map s.getV)

/-- V[k], V[k+1], ... <- the bytes of the list (R86). -/
def loadRegs (k : Nat) : List Byte → State → State
  | [], s => s
  | b :: bs, s => loadRegs (k + 1) bs (s.setV (BitVec.ofNat 4 k) b)

/-- zext_16 of a 12-bit address field (R8, R47). -/
def addrWord (nnn : Addr12) : Word := nnn.setWidth 16

/-- zext_16 of a register's byte (R8). -/
def byteWord (b : Byte) : Word := b.setWidth 16

/-- The decimal digits of a byte: hundreds, tens, ones, by integer truncation (R84). -/
def decimalDigits (b : Byte) : List Byte :=
  [BitVec.ofNat 8 (b.toNat / 100), BitVec.ofNat 8 (b.toNat / 10 % 10), BitVec.ofNat 8 (b.toNat % 10)]

end Sys2Proof.Machine
end

