-- ==== Sys2Proof/Machine/Alu.lean ====
section
/-!
DEFINITION. Register loads and the 8-bit ALU (spec/41_alu.md). Byte arithmetic wraps (R66); the flag is written after
the result for ADD, SUB and SUBN, before it for SHR and SHL (R67).
-/
namespace Sys2Proof.Machine

/-- V[x] <- r; pc <- a + 2: an instruction that writes one register and no flag. -/
def writeV (x : Reg) (r : Byte) (s : State) : Result := .next (s.setV x r).advance

/-- V[x] <- r; V[0xF] <- c; pc <- a + 2 (R67). -/
def writeVFlag (x : Reg) (r : Byte) (c : Bool) (s : State) : Result := .next ((s.setV x r).setFlag c).advance

/-- LD Vx, kk (R68): V[x] <- kk. -/
def execLdVxKk (x : Reg) (kk : Byte) (s : State) : Result := writeV x kk s

/-- ADD Vx, kk (R69): V[x] <- u8(V[x] + kk); no flag. -/
def execAddVxKk (x : Reg) (kk : Byte) (s : State) : Result := withV x s fun p => writeV x (p + kk) s

/-- LD Vx, Vy (R70): V[x] <- V[y]. -/
def execLdVxVy (x y : Reg) (s : State) : Result := withV y s fun q => writeV x q s

/-- OR Vx, Vy (R71); VF is not cleared. -/
def execOrVxVy (x y : Reg) (s : State) : Result :=
  withV x s fun p => withV y s fun q => writeV x (p ||| q) s

/-- AND Vx, Vy (R72). -/
def execAndVxVy (x y : Reg) (s : State) : Result :=
  withV x s fun p => withV y s fun q => writeV x (p &&& q) s

/-- XOR Vx, Vy (R73). -/
def execXorVxVy (x y : Reg) (s : State) : Result :=
  withV x s fun p => withV y s fun q => writeV x (p ^^^ q) s

/-- ADD Vx, Vy (R74): V[x] <- u8(V[x] + V[y]); VF <- carry. -/
def execAddVxVy (x y : Reg) (s : State) : Result :=
  withV x s fun p => withV y s fun q => writeVFlag x (p + q) (carryOf p q) s

/-- SUB Vx, Vy (R75): V[x] <- u8(V[x] - V[y]); VF <- (V[x] >= V[y]). -/
def execSubVxVy (x y : Reg) (s : State) : Result :=
  withV x s fun p => withV y s fun q => writeVFlag x (p - q) (noBorrow p q) s

/-- SHR Vx (R76): VF <- bit 0; V[x] <- V[x] >> 1, logical. The y field is ignored. -/
def execShr (x _y : Reg) (s : State) : Result :=
  withV x s fun p => .next (shiftWrites x p (lowBit p) (fun b => b >>> 1) s).advance

/-- SUBN Vx, Vy (R77): V[x] <- u8(V[y] - V[x]); VF <- (V[y] >= V[x]). -/
def execSubn (x y : Reg) (s : State) : Result :=
  withV x s fun p => withV y s fun q => writeVFlag x (q - p) (noBorrow q p) s

/-- SHL Vx (R78): VF <- bit 7; V[x] <- u8(V[x] << 1). The y field is ignored. -/
def execShl (x _y : Reg) (s : State) : Result :=
  withV x s fun p => .next (shiftWrites x p (highBit p) (fun b => b <<< 1) s).advance

/-- RND Vx, kk (R79): V[x] <- input.random & kk, with the random byte a free value (log 1). -/
def execRnd (x : Reg) (kk : Byte) (s : State) : Result := writeV x (s.input.random &&& kk) s

end Sys2Proof.Machine
end

