-- ==== Sys2Proof/Machine/DisplayOut.lean ====
section
/-!
DEFINITION. The display instructions CLS and DRW (spec/43_display.md R87 to R89). The display itself is an external
collaborator: the block emits events and reads back a collision flag.
-/
namespace Sys2Proof.Machine

/-- CLS (R88): emit Clear. -/
def execCls (s : State) : Result := .next (s.emit .clear).advance

/-- DRW Vx, Vy, n (R89): read V[x], V[y] and the n bytes at I, emit Draw, then VF <- the display's answer, a free value
(log 1). With n = 0 the Draw is empty and no access is made (D29); I is read as an operand all the same (log 10). -/
def execDrw (x y : Reg) (n : Nib) (s : State) : Result :=
  withV x s fun px => withV y s fun py => withI s fun a => memRead a n.toNat s fun bytes =>
    .next ((s.emit (.draw bytes px py)).setFlag s.input.collision).advance

end Sys2Proof.Machine
end

