-- ==== Sys2Proof/Machine/FlowStack.lean ====
section
/-!
DEFINITION. Control flow and the call stack: RET, JP, CALL, the register skips, JP V0 (spec/40_flow_stack.md), and
the execution of an UNRECOGNISED word (spec/30_encoding.md R52).
-/
namespace Sys2Proof.Machine

/-- RET (R58): pc <- Pop(), no further advance; StackUnderflow when SP = 0. -/
def execRet (s : State) : Result := pop s fun target t => .next (t.jump target)

/-- JP nnn (R59): pc <- zext_16(nnn). -/
def execJp (nnn : Addr12) (s : State) : Result := .next (s.jump (addrWord nnn))

/-- CALL nnn (R60): Push(a + 2), then pc <- zext_16(nnn); StackOverflow when SP = 16. -/
def execCall (nnn : Addr12) (s : State) : Result := push (s.pc + 2) s fun t => .next (t.jump (addrWord nnn))

/-- SE Vx, kk (R61): skip if V[x] = kk. -/
def execSeVxKk (x : Reg) (kk : Byte) (s : State) : Result :=
  withV x s fun p => .next (s.skipIf (p == kk))

/-- SNE Vx, kk (R62): skip if V[x] != kk. -/
def execSneVxKk (x : Reg) (kk : Byte) (s : State) : Result :=
  withV x s fun p => .next (s.skipIf (p != kk))

/-- SE Vx, Vy (R63): skip if V[x] = V[y]. -/
def execSeVxVy (x y : Reg) (s : State) : Result :=
  withV x s fun p => withV y s fun q => .next (s.skipIf (p == q))

/-- SNE Vx, Vy (R64): skip if V[x] != V[y]. -/
def execSneVxVy (x y : Reg) (s : State) : Result :=
  withV x s fun p => withV y s fun q => .next (s.skipIf (p != q))

/-- JP V0, nnn (R65): pc <- nnn + V0, exact. V0 is read, so R29 applies to it (DEDUCED, log 9). -/
def execJpV0 (nnn : Addr12) (s : State) : Result :=
  withV reg0 s fun p => .next (s.jump (addrWord nnn + byteWord p))

/-- An UNRECOGNISED word at a (R52): emit Diagnostic(a, w), pc <- a + 2. Never a fault; 0x0000 is one (C10). -/
def execUnrecognised (w : Word) (s : State) : Result := .next (s.emit (.diagnostic s.pc w)).advance

end Sys2Proof.Machine
end

