-- ==== Sys2Proof/Machine/IndexMemory.lean ====
section
/-!
DEFINITION. The index register and the memory block transfers (spec/42_index_memory.md). An access leaves I
unchanged and its bounds check covers the whole transfer (R80).
-/
namespace Sys2Proof.Machine

/-- LD I, nnn (R81): I <- zext_16(nnn). -/
def execLdINnn (nnn : Addr12) (s : State) : Result := .next (s.setI (addrWord nnn)).advance

/-- ADD I, Vx (R82): I <- u16(I + V[x]); VF is not written and no bound is checked here. -/
def execAddIVx (x : Reg) (s : State) : Result :=
  withI s fun a => withV x s fun p => .next (s.setI (a + byteWord p)).advance

/-- LD F, Vx (R83): I <- 16 * V[x], unmasked. -/
def execLdFVx (x : Reg) (s : State) : Result :=
  withV x s fun p => .next (s.setI (16 * byteWord p)).advance

/-- LD B, Vx (R84): mem[I..I+2] <- the decimal digits of V[x]. -/
def execLdBVx (x : Reg) (s : State) : Result :=
  withV x s fun p => withI s fun a => memWrite a (decimalDigits p) s fun t => .next t.advance

/-- LD [I], Vx (R85): mem[I..I+x] <- V0..Vx. -/
def execLdMemVx (x : Reg) (s : State) : Result :=
  withI s fun a => withVs (regsTo x) s fun bytes => memWrite a bytes s fun t => .next t.advance

/-- LD Vx, [I] (R86): V0..Vx <- mem[I..I+x], all read before any is written. -/
def execLdVxMem (x : Reg) (s : State) : Result :=
  withI s fun a => memRead a (x.toNat + 1) s fun bytes => .next (loadRegs 0 bytes s).advance

end Sys2Proof.Machine
end

