-- ==== Sys2Proof/Machine/KeypadTimer.lean ====
section
/-!
DEFINITION. The keypad and timer instructions (spec/44_keypad_timer.md). The run loop polls the keys, ends a key wait
and ticks the timers (Machine/Loop.lean).
-/
namespace Sys2Proof.Machine

/-- `let k = V[x]`, then `c` of the state of key k; KeyIndexOutOfRange(k) when k > 15 (R91). -/
def withKey (x : Reg) (s : State) (c : Bool → Result) : Result :=
  withV x s fun k =>
    if h : k.toNat < 16 then c s.keys[k.toNat] else raise (.keyIndexOutOfRange k) s

/-- SKP Vx (R92): skip if key V[x] is pressed in this iteration's poll. -/
def execSkp (x : Reg) (s : State) : Result := withKey x s fun down => .next (s.skipIf down)

/-- SKNP Vx (R93): skip if key V[x] is not pressed in this iteration's poll. -/
def execSknp (x : Reg) (s : State) : Result := withKey x s fun down => .next (s.skipIf (!down))

/-- LD Vx, DT (R94): V[x] <- DT. -/
def execLdVxDt (x : Reg) (s : State) : Result := .next (s.setV x s.dt).advance

/-- LD Vx, K (R95): mode <- AwaitingKey(x); Vx is written later, by the run loop. -/
def execLdVxK (x : Reg) (s : State) : Result := .next (s.setMode (.awaitingKey x)).advance

/-- LD DT, Vx (R96): DT <- V[x]. -/
def execLdDtVx (x : Reg) (s : State) : Result := withV x s fun p => .next (s.setDt p).advance

/-- LD ST, Vx (R97): ST <- V[x]; no Play or Pause here. -/
def execLdStVx (x : Reg) (s : State) : Result := withV x s fun p => .next (s.setSt p).advance

end Sys2Proof.Machine
end

