-- ==== Sys2Proof/Machine/Loop.lean ====
section
/-!
DEFINITION. The run loop (spec/60_exceptions.md R98 to R107): the poll, the key wait, the pc bound, executing one word,
and the peripheral-tick accounting. One iteration is one step.
-/
namespace Sys2Proof.Machine

/-! ## Step 1: the keypad poll -/

/-- The state of key `k` in a poll (R22). -/
def keyDown (keys : Vector Bool 16) (k : Key) : Bool := keys[k.toNat]'(k.isLt)

/-- Key `k` is newly pressed: pressed in this poll and not in the previous one (R23, R102). -/
def newlyPressed (now prev : Vector Bool 16) (k : Key) : Bool := keyDown now k && !keyDown prev k

/-- The 16 key indexes, lowest first. -/
def allKeys : List Key := (List.range 16).map (BitVec.ofNat 4)

/-- Which newly-pressed key ends a wait, if any: input.keychoice when it is one of them. The host must choose one of
them (R98, R105); a record that does not is read as the lowest, the simulator's choice (DESIGN CHOICE, log 2). -/
def chosenKey (now prev : Vector Bool 16) (choice : Key) : Option Key :=
  if newlyPressed now prev choice then some choice else allKeys.find? (newlyPressed now prev)

/-- keys <- input.keys; prevKeys <- input.keys (R100, R102). -/
def State.poll (s : State) : State := { s with keys := s.input.keys, prevKeys := s.input.keys }

/-! ## Step 2: the key wait -/

/-- The value written to the target register: the key's index as an 8-bit value (R105). -/
def keyByte (k : Key) : Byte := k.setWidth 8

/-- The AwaitingKey(t) rows of R105, with `k` the key that ends the wait, if any. -/
def serveWait (t : Reg) (k : Option Key) (s : State) : State :=
  match k with
  | some k => (s.setV t (keyByte k)).setMode .running
  | none => s

/-! ## Step 3: executing one word -/

/-- `Execute(w)` (R104): the instruction R49 selects, or the rule of an UNRECOGNISED word (R52). -/
def executeWord (w : Word) (s : State) : Result :=
  match decode w with
  | .ok i => exec i s
  | .error _ => execUnrecognised w s

/-! ## Step 4: the peripheral tick -/

/-- DT <- DT - 1 when DT > 0 (R107). -/
def tickDelay (s : State) : State := if s.dt = 0 then s else s.setDt (s.dt - 1)

/-- ST > 0: decrement it and emit Play; else emit Pause (R107, D18). -/
def tickSound (s : State) : State :=
  if s.st = 0 then s.emit .pause else (s.setSt (s.st - 1)).emit .play

/-- `Tick()` (R107): the delay timer, the sound timer and the tone, then Refresh. -/
def tick (s : State) : State := (tickSound (tickDelay s)).emit .refresh

/-- subtick <- n. -/
def State.setSubtick (s : State) (n : Nat) : State := { s with subtick := n }

/-- Step 4 of R100: count the iteration; at TICK_RATIO the counter returns to 0 and a tick happens (R106). -/
def accountTick (s : State) : State :=
  if s.subtick + 1 = s.params.tickRatio then tick (s.setSubtick 0) else s.setSubtick (s.subtick + 1)

/-! ## The iteration -/

/-- The end of an iteration that executed a word: a fault ends it without step 4 (R104); otherwise step 4 follows.
Either way the iteration's input record is used up. -/
def finishIteration (s : State) : State :=
  match s.status with
  | .live => (accountTick s).nextInput
  | _ => s.nextInput

/-- The Running branch of R100 on the polled state: the pc bound (R103), then fetch and execute. -/
def runningIteration (s : State) : Result :=
  if 4096 ≤ s.pc.toNat then .next (s.setStatus (.halted (.pcOutOfRange s.pc))).nextInput
  else if s.pc.toNat = 4095 then .next (s.setStatus (.faulted (.fetchOutOfRange s.pc))).nextInput
  else
    match executeWord s.fetch s with
    | .next t => .next (finishIteration t)
    | .fault r => .fault r
    | .refused r => .refused r

/-- `Iterate(input)` of R100, from status Live. -/
def iterate (s : State) : Result :=
  if s.input.stop then .next (s.setStatus (.halted .hostStop)).nextInput
  else
    match s.mode with
    | .awaitingKey t =>
      .next (accountTick (serveWait t (chosenKey s.input.keys s.prevKeys s.input.keychoice) s.poll)).nextInput
    | .running => runningIteration s.poll

/-- One step of the run loop. Halted and Faulted are quiescent: no iteration runs from them (R112), and the run's
end is reported to the caller (R99, R119). -/
def runLoopStep (s : State) : Result :=
  match s.status with
  | .live => iterate s
  | .halted r => .fault (.runHalted r)
  | .faulted f => .fault (.runFaulted f)

/-! ## Placing an instruction where the next step fetches -/

/-- `s` with the bytes of `w` at pc and pc + 1, and with what the next step needs to fetch there: status Live, mode
Running, and an input record in which the host does not stop the run. The other inputs of that record are those the
iteration would have had (log 15). -/
def placeFetchWord (s : State) (nbits w : Nat) : State :=
  { s.writeBytes s.pc.toNat (tableWordBytes nbits w) with
    status := .live
    mode := .running
    inputs := { s.input with stop := false } :: s.inputs.tail }

end Sys2Proof.Machine
end

