-- ==== Sys2Proof/Machine/Step.lean ====
section
/-!
DEFINITION. The step of the machine: one iteration of the run loop (spec/60_exceptions.md R100).
-/
namespace Sys2Proof.Machine

/-- One iteration from status Live; a stop from a quiescent status (R100, R112). -/
def step (s : State) : Host.Outcome State Fault Refusal := runLoopStep s

/-- `s` with the instruction whose table bits are `w` placed where `step` fetches its next instruction (log 15). -/
def State.withFetchWord (s : State) (nbits w : Nat) : State := placeFetchWord s nbits w

end Sys2Proof.Machine
end

