-- ==== Sys2Proof/Machine/Boot.lean ====
section
/-!
DEFINITION. Construction with a program (spec/20_memory.md R35, spec/70_reset_and_hazards.md R120).
-/
namespace Sys2Proof.Machine

/-- `Construct(P, params)` (R120): the constructed block with the program image at 512, or ProgramTooLarge when
512 + L >= 4096, and then no machine (R35, D37). -/
def boot (p : Config.Params) (image : List Byte) : Result :=
  if imageWellFormed image then .next ((State.construct p).writeBytes 512 image)
  else .refused (.programTooLarge image.length)

end Sys2Proof.Machine
end

