-- ==== Sys2Proof/Machine/Display.lean ====
section
/-!
DEFINITION. The reference display of spec/43_display.md R90. It is not part of the block (R4, R30): it is a component
that a model may compose with the block, so that the collision flag follows from the earlier draws.
-/
namespace Sys2Proof.Machine

/-- The display's state: its size DISPLAY_W x DISPLAY_H, both OPEN parameters, and pix[px][py], column by column. -/
structure Display where
  w : Nat
  h : Nat
  pix : List (List Bool)
  deriving DecidableEq, Repr

/-- At construction all pixels are false (R90). -/
def blankDisplay (w h : Nat) : Display := { w := w, h := h, pix := List.replicate w (List.replicate h false) }

/-- pix[px][py]; false outside the plane, which no draw reaches. -/
def Display.pixel (d : Display) (px py : Nat) : Bool := (d.pix.getD px []).getD py false

/-- pix[px][py] <- not pix[px][py]: the XOR-blit of one set sprite bit (R90). -/
def Display.flip (d : Display) (px py : Nat) : Display := { d with pix := d.pix.modify px (fun col => col.modify py (!·)) }

/-- `clear()` (R90). -/
def Display.clear (d : Display) : Display := { d with pix := List.replicate d.w (List.replicate d.h false) }

/-- The pixels a sprite's set bits land on, in the order drawn: row by row, bit 7 leftmost, each coordinate wrapped on
its own (R90). -/
def spritePixels (w h : Nat) (bytes : List Byte) (x y : Nat) : List (Nat × Nat) :=
  bytes.zipIdx.flatMap fun (b, r) =>
    ((List.range 8).filter fun k => b.getLsbD (7 - k)).map fun k => ((x + k) % w, (y + r) % h)

/-- One set sprite bit: the collision flag rises when the pixel goes from set to unset (R90). -/
def blit (dc : Display × Bool) (p : Nat × Nat) : Display × Bool :=
  (dc.1.flip p.1 p.2, dc.2 || dc.1.pixel p.1 p.2)

/-- `draw(bytes, X, Y)` with its collision answer (R90). -/
def Display.draw (d : Display) (bytes : List Byte) (x y : Byte) : Display × Bool :=
  (spritePixels d.w d.h bytes x.toNat y.toNat).foldl blit (d, false)

/-- What an event does to the display, and the collision answer given so far (R87, R90): refresh has no effect on pix. -/
def displayEvent (dc : Display × Bool) : Event → Display × Bool
  | .clear => (dc.1.clear, dc.2)
  | .draw bytes x y => dc.1.draw bytes x y
  | .refresh => dc
  | .play => dc
  | .pause => dc
  | .diagnostic _ _ => dc

/-- The block beside its reference display. -/
structure WithDisplay where
  block : State
  display : Display
  deriving DecidableEq, Repr

/-- The block whose coming input record answers a Draw with `c` (R98: collision "given by rule R90"). -/
def State.answerDraw (s : State) (c : Bool) : State :=
  { s with inputs := { s.input with collision := c } :: s.inputs.tail }

/-- The events a step emitted. -/
def newEvents (s t : State) : List Event := t.events.drop s.events.length

/-- One iteration of the composition: the display answers the Draw the block emits, if any. What the block emits does
not depend on that answer, so it is found by a step with the answer 0. -/
def stepWithDisplay (m : WithDisplay) : Host.Outcome WithDisplay Fault Refusal :=
  match step (m.block.answerDraw false) with
  | .next t =>
    let dc := (newEvents m.block t).foldl displayEvent (m.display, false)
    match step (m.block.answerDraw dc.2) with
    | .next u => .next { block := u, display := dc.1 }
    | .fault r => .fault r
    | .refused r => .refused r
  | .fault r => .fault r
  | .refused r => .refused r

end Sys2Proof.Machine
end

