-- ==== Sys2Proof/Safety.lean ====
section
/-!
DEFINITION. What counts as a safe run, and the terms claims are stated in: the end of a run (spec/60_exceptions.md
R112, R119), the invariants of the state, what an instruction may write and leaves unchanged, and which registers it
reads.
-/
namespace Sys2Proof.Machine

/-! ## Safe runs -/

/-- The run has no error: "status is not Faulted", the premise of every claim about a run's result (R112, R119). -/
def State.notFaulted (s : State) : Bool :=
  match s.status with
  | .faulted _ => false
  | _ => true

/-- The run loop fetches in the coming iteration: Live, Running, not stopped by the host, and pc at most 4094, where
both bytes of the word exist (R100, R101, R103). -/
abbrev State.fetches (s : State) : Prop :=
  s.status = .live ∧ s.mode = .running ∧ s.input.stop = false ∧ s.pc.toNat ≤ 4094

/-! ## Invariants -/

/-- The memory is in canonical form, TICK_RATIO is at least 1 (R6) and the sub-tick counter below it (R25, R28). -/
abbrev State.inv (s : State) : Prop :=
  s.memWf ∧ 1 ≤ s.params.tickRatio ∧ s.subtick < s.params.tickRatio

/-- pc never passes 0x10FE, the largest value an instruction can set (R18), and no live stack entry passes 4096, the
largest a + 2 a CALL can push (R60). -/
abbrev State.pcBounded (s : State) : Prop :=
  s.pc.toNat ≤ 0x10FE ∧ ∀ j : Fin 16, j.val < s.sp.val → (s.stack[j.val]'j.isLt).toNat ≤ 4096

/-! ## Frames -/

/-- A part of the state that an instruction may write. pc is not among them: every instruction sets it (R10). -/
inductive Part where
  /-- V[r] with its written bit. -/
  | reg (r : Reg)
  /-- I with its written bit. -/
  | index
  /-- SP and the stack entries. -/
  | stack
  | dt
  | st
  | mode
  | events
  /-- The byte of memory at address `a`. -/
  | byte (a : Nat)
  deriving DecidableEq, Repr

/-- The part is the same in both states. -/
def Part.same (s t : State) : Part → Prop
  | .reg r => t.getV r = s.getV r ∧ t.vWritten[r.toNat]'(r.isLt) = s.vWritten[r.toNat]'(r.isLt)
  | .index => t.i = s.i ∧ t.iWritten = s.iWritten
  | .stack => t.sp = s.sp ∧ t.stack = s.stack
  | .dt => t.dt = s.dt
  | .st => t.st = s.st
  | .mode => t.mode = s.mode
  | .events => t.events = s.events
  | .byte a => t.readByte a = s.readByte a

/-- What an instruction leaves unchanged, when it may write the parts of `w`: every other part, and always the
parameters, the polled keys, the sub-tick counter and the inputs, which no instruction writes (R28). -/
structure Frame (w : Part → Prop) (s t : State) : Prop where
  parts : ∀ p, ¬ w p → p.same s t
  params : t.params = s.params
  keys : t.keys = s.keys ∧ t.prevKeys = s.prevKeys
  subtick : t.subtick = s.subtick
  inputs : t.inputs = s.inputs ∧ t.iteration = s.iteration

/-- The memory bytes at a, ..., a + n - 1. -/
def Part.inBytes (a n : Nat) : Part → Prop
  | .byte b => a ≤ b ∧ b < a + n
  | _ => False

/-- The registers V0..Vx. -/
def Part.inRegsTo (x : Reg) : Part → Prop
  | .reg r => r.toNat ≤ x.toNat
  | _ => False

/-- What each instruction may write, pc apart (R16, R19, R20, R21, R24, R40, and the instruction rules). -/
def mayWrite (i : Instr) (s : State) (p : Part) : Prop :=
  match i with
  | .cls => p = .events
  | .ret => p = .stack
  | .jp _ => False
  | .call _ => p = .stack
  | .seVxKk _ _ => False
  | .sneVxKk _ _ => False
  | .seVxVy _ _ => False
  | .ldVxKk x _ => p = .reg x
  | .addVxKk x _ => p = .reg x
  | .ldVxVy x _ => p = .reg x
  | .orVxVy x _ => p = .reg x
  | .andVxVy x _ => p = .reg x
  | .xorVxVy x _ => p = .reg x
  | .addVxVy x _ => p = .reg x ∨ p = .reg regF
  | .subVxVy x _ => p = .reg x ∨ p = .reg regF
  | .shr x _ => p = .reg x ∨ p = .reg regF
  | .subn x _ => p = .reg x ∨ p = .reg regF
  | .shl x _ => p = .reg x ∨ p = .reg regF
  | .sneVxVy _ _ => False
  | .ldINnn _ => p = .index
  | .jpV0 _ => False
  | .rnd x _ => p = .reg x
  | .drw _ _ _ => p = .events ∨ p = .reg regF
  | .skp _ => False
  | .sknp _ => False
  | .ldVxDt x => p = .reg x
  | .ldVxK _ => p = .mode
  | .ldDtVx _ => p = .dt
  | .ldStVx _ => p = .st
  | .addIVx _ => p = .index
  | .ldFVx _ => p = .index
  | .ldBVx _ => p.inBytes s.i.toNat 3
  | .ldMemVx x => p.inBytes s.i.toNat (x.toNat + 1)
  | .ldVxMem x => p.inRegsTo x

/-- The section of the spec an instruction stands in. -/
inductive Family where
  | flow
  | alu
  | indexMemory
  | display
  | keypadTimer
  deriving DecidableEq, Repr

/-- The family of each instruction (spec/INDEX.md). -/
def familyOf : Instr → Family
  | .cls => .display
  | .ret => .flow
  | .jp _ => .flow
  | .call _ => .flow
  | .seVxKk _ _ => .flow
  | .sneVxKk _ _ => .flow
  | .seVxVy _ _ => .flow
  | .ldVxKk _ _ => .alu
  | .addVxKk _ _ => .alu
  | .ldVxVy _ _ => .alu
  | .orVxVy _ _ => .alu
  | .andVxVy _ _ => .alu
  | .xorVxVy _ _ => .alu
  | .addVxVy _ _ => .alu
  | .subVxVy _ _ => .alu
  | .shr _ _ => .alu
  | .subn _ _ => .alu
  | .shl _ _ => .alu
  | .sneVxVy _ _ => .flow
  | .ldINnn _ => .indexMemory
  | .jpV0 _ => .flow
  | .rnd _ _ => .alu
  | .drw _ _ _ => .display
  | .skp _ => .keypadTimer
  | .sknp _ => .keypadTimer
  | .ldVxDt _ => .keypadTimer
  | .ldVxK _ => .keypadTimer
  | .ldDtVx _ => .keypadTimer
  | .ldStVx _ => .keypadTimer
  | .addIVx _ => .indexMemory
  | .ldFVx _ => .indexMemory
  | .ldBVx _ => .indexMemory
  | .ldMemVx _ => .indexMemory
  | .ldVxMem _ => .indexMemory

/-! ## Register reads -/

/-- The registers an instruction reads as operands, in the order it reads them (R29, R113; log 8, log 9, log 10). -/
def operandsOf : Instr → List RegName
  | .cls => []
  | .ret => []
  | .jp _ => []
  | .call _ => []
  | .seVxKk x _ => [.v x]
  | .sneVxKk x _ => [.v x]
  | .seVxVy x y => [.v x, .v y]
  | .ldVxKk _ _ => []
  | .addVxKk x _ => [.v x]
  | .ldVxVy _ y => [.v y]
  | .orVxVy x y => [.v x, .v y]
  | .andVxVy x y => [.v x, .v y]
  | .xorVxVy x y => [.v x, .v y]
  | .addVxVy x y => [.v x, .v y]
  | .subVxVy x y => [.v x, .v y]
  | .shr x _ => [.v x]
  | .subn x y => [.v x, .v y]
  | .shl x _ => [.v x]
  | .sneVxVy x y => [.v x, .v y]
  | .ldINnn _ => []
  | .jpV0 _ => [.v reg0]
  | .rnd _ _ => []
  | .drw x y _ => [.v x, .v y, .i]
  | .skp x => [.v x]
  | .sknp x => [.v x]
  | .ldVxDt _ => []
  | .ldVxK _ => []
  | .ldDtVx x => [.v x]
  | .ldStVx x => [.v x]
  | .addIVx x => [.i, .v x]
  | .ldFVx x => [.v x]
  | .ldBVx x => [.v x, .i]
  | .ldMemVx x => .i :: (regsTo x).map .v
  | .ldVxMem _ => [.i]

/-- The register has a value: RESET_ZERO_REGS is true or it has been written (R29). -/
def State.hasValue (s : State) : RegName → Bool
  | .v r => s.vReadable r
  | .i => s.iReadable

/-- Every register the instruction reads has a value (R29): always so under the default RESET_ZERO_REGS = true. -/
abbrev State.readsOk (s : State) (i : Instr) : Prop := ∀ r ∈ operandsOf i, s.hasValue r = true

/-- Executing `i` at `s` raises UninitialisedRead for one of its operands that has no value, and changes nothing else
(R29, R111). -/
def raisesUninitialised (i : Instr) (s : State) : Prop :=
  ∃ r ∈ operandsOf i, s.hasValue r = false ∧ exec i s = .next (s.setStatus (.faulted (.uninitialisedRead r)))

/-! ## Runs and nested calls -/

/-- `n` iterations, one after another (R99); it ends early where a step answers no next state. -/
def runFor : Nat → State → Result
  | 0, s => .next s
  | n + 1, s =>
    match step s with
    | .next t => runFor n t
    | .fault r => .fault r
    | .refused r => .refused r

/-- One CALL after another, each at the state the one before it left. -/
def callAll : List Addr12 → State → Result
  | [], s => .next s
  | nnn :: rest, s =>
    match exec (.call nnn) s with
    | .next t => callAll rest t
    | .fault r => .fault r
    | .refused r => .refused r

end Sys2Proof.Machine
end

