-- ==== Sys2Proof/Certificates/Slice0/Obligations.lean ====
section
/-!
DEFINITION. The statements for the provers, from the numbered rules of spec/. "D<n>" is a decision of
spec/92_eei_decisions.md, marked there as the spec's own choice; "log <n>" is notes/assumptions/<n>.md.
-/

open Sys2Proof Sys2Proof.Machine

/-! ## Encoding (30_encoding.md) -/

/-- R47, R49, R54: the decoder reads back every instruction from its encoded word, with every operand at every value
its field admits. -/
def Obligations.DecodeOfEncode : Prop :=
  ∀ i : Instr, i.wellFormed = true → decode (encode i) = .ok i

/-- R49, R50 and the table's match and mask words: a recognised word has one meaning. It matches the row of the
instruction read from it and is that instruction's encoding, and a word that matches a row is read as an instruction
of that row, so no two rows match one word. -/
def Obligations.DecodeFollowsTheOpcodeTable : Prop :=
  (∀ (w : Word) (i : Instr), decode w = .ok i → matchesRow w i = true ∧ encode i = w) ∧
  (∀ (w : Word) (i : Instr), matchesRow w i = true → ∃ j, decode w = .ok j ∧ tableRow j = tableRow i)

/-- R51: every word is an instruction or UNRECOGNISED, and the UNRECOGNISED words are exactly those R51 lists. -/
def Obligations.UnrecognisedWordsAreThoseListed : Prop :=
  ∀ w : Word,
    ((∃ i, decode w = .ok i) ∨ decode w = .error (.unrecognised w)) ∧
    (decode w = .error (.unrecognised w) ↔
      (w.toNat / 4096 = 0x0 ∧ w.toNat ≠ 0x00E0 ∧ w.toNat ≠ 0x00EE) ∨
      ((w.toNat / 4096 = 0x5 ∨ w.toNat / 4096 = 0x9) ∧ w.toNat % 16 ≠ 0) ∨
      (w.toNat / 4096 = 0x8 ∧ w.toNat % 16 ∈ [0x8, 0x9, 0xA, 0xB, 0xC, 0xD, 0xF]) ∨
      (w.toNat / 4096 = 0xE ∧ w.toNat % 256 ∉ [0x9E, 0xA1]) ∨
      (w.toNat / 4096 = 0xF ∧ w.toNat % 256 ∉ [0x07, 0x0A, 0x15, 0x18, 0x1E, 0x29, 0x33, 0x55, 0x65]))

/-- R48: the field extractor is the masked, shifted value, for 1 to 3 nibbles from any offset; and the six fields of R47
are the bits they name. -/
def Obligations.FieldIsMaskedShiftedValue : Prop :=
  ∀ w : Word,
    (∀ count offset : Nat, 1 ≤ count → count ≤ 3 → offset ≤ 3 →
      (field w count offset).toNat = (w.toNat >>> (4 * offset)) &&& (16 ^ count - 1)) ∧
    (fieldOp w).toNat = w.toNat / 4096 ∧ (fieldX w).toNat = w.toNat / 256 % 16 ∧
    (fieldY w).toNat = w.toNat / 16 % 16 ∧ (fieldN w).toNat = w.toNat % 16 ∧
    (fieldKk w).toNat = w.toNat % 256 ∧ (fieldNnn w).toNat = w.toNat % 4096

/-- R49 and the patterns of R54, on a few words written out from them (a sanity statement). -/
def Obligations.WrittenOutWordsDecode : Prop :=
  decode 0b0000000011100000#16 = .ok .cls ∧
  decode 0b0010001100000000#16 = .ok (.call 0x300) ∧
  decode 0b1000000000010100#16 = .ok (.addVxVy 0x0 0x1) ∧
  decode 0b1101000100100101#16 = .ok (.drw 0x1 0x2 0x5) ∧
  decode 0b1110000110011110#16 = .ok (.skp 0x1) ∧
  decode 0b1111001001010101#16 = .ok (.ldMemVx 0x2) ∧
  decode 0b0101000100100001#16 = .error (.unrecognised 0x5121)

/-! ## The iteration (60_exceptions.md) -/

/-- R100, R104: the word fetched is the big-endian word of the two bytes at pc (R36, R37: D1, a presumption; log 22), and
when it decodes to `i`, the step polls the keys, executes `i` at that state, and, unless `i` raised a fault, accounts for
the tick; then the iteration's input record is used up. -/
def Obligations.StepRunsTheDecodedInstruction : Prop :=
  (∀ s : State,
    s.fetch.toNat = 256 * (s.readByte s.pc.toNat).toNat + (s.readByte (s.pc.toNat + 1)).toNat) ∧
  ∀ (s u : State) (i : Instr), s.fetches → decode s.fetch = .ok i → exec i s.poll = .next u →
    (u.status = .live → step s = .next (accountTick u).nextInput) ∧
    (u.status ≠ .live → step s = .next u.nextInput)

/-- R52 (D28): an UNRECOGNISED word at pc is a no-op with one Diagnostic event and the normal advance; the tick
accounting follows. For the word 0x0000 the claim does not say whether the Diagnostic is emitted, as 90_conflicts.md C10
asks (log 12): the event list is the old one with it or without it. -/
def Obligations.StepOnUnrecognisedWordIsANoOp : Prop :=
  ∀ s : State, s.fetches → decode s.fetch = .error (.unrecognised s.fetch) →
    (s.fetch ≠ 0 → step s = .next (accountTick { s.poll with
      events := s.events ++ [.diagnostic s.pc s.fetch], pc := s.pc + 2 }).nextInput) ∧
    (s.fetch = 0 → ∃ evs, (evs = s.events ∨ evs = s.events ++ [.diagnostic s.pc 0]) ∧
      step s = .next (accountTick { s.poll with events := evs, pc := s.pc + 2 }).nextInput)

/-- R101 (D24): a stop halts the run and changes nothing else; no poll is stored, no instruction runs, no tick
happens. The last two fields are the model's own: the input record is used up (log 1). -/
def Obligations.HostStopChangesTheStatusAlone : Prop :=
  ∀ s : State, s.status = .live → s.input.stop = true →
    step s = .next { s with
      status := .halted .hostStop, inputs := s.inputs.tail, iteration := s.iteration + 1 }

/-- R103 (D4): at pc >= 4096 a Running iteration halts, at pc = 4095 it faults, at pc <= 4094 it executes the word
fetched at pc. -/
def Obligations.PcBoundComesBeforeTheFetch : Prop :=
  ∀ s : State, s.status = .live → s.mode = .running → s.input.stop = false →
    (4096 ≤ s.pc.toNat → step s = .next (s.poll.setStatus (.halted (.pcOutOfRange s.pc))).nextInput) ∧
    (s.pc.toNat = 4095 → step s = .next (s.poll.setStatus (.faulted (.fetchOutOfRange s.pc))).nextInput) ∧
    (s.pc.toNat ≤ 4094 → ∃ u, executeWord s.fetch s.poll = .next u ∧ step s = .next (finishIteration u))

/-- R112 (D27): Halted and Faulted are quiescent. No step runs from them; the model reports the status (log 7). -/
def Obligations.QuiescentStatesHaveNoStep : Prop :=
  ∀ s : State,
    (∀ r, s.status = .halted r → step s = .fault (.runHalted r)) ∧
    (∀ f, s.status = .faulted f → step s = .fault (.runFaulted f)) ∧
    (s.status ≠ .live → ∀ t, step s ≠ .next t)

/-- R105 (D15): a wait iteration executes no instruction. A key is newly pressed when it is down in this poll and was not
in the previous one (R23, R102: D13, log 13). With such a key the iteration writes the index of one of them,
input.keychoice when that is one (D14), and returns to Running; with none, held keys or not, it changes nothing; the tick
accounting follows. -/
def Obligations.KeyWaitIteration : Prop :=
  ∀ (s : State) (r : Reg), s.status = .live → s.input.stop = false → s.mode = .awaitingKey r →
    ((∃ k, keyDown s.input.keys k = true ∧ keyDown s.prevKeys k = false) →
      ∃ k, keyDown s.input.keys k = true ∧ keyDown s.prevKeys k = false ∧
        (keyDown s.input.keys s.input.keychoice = true → keyDown s.prevKeys s.input.keychoice = false →
          k = s.input.keychoice) ∧
        step s = .next (accountTick ((s.poll.setV r (BitVec.ofNat 8 k.toNat)).setMode .running)).nextInput) ∧
    ((∀ k, keyDown s.input.keys k = true → keyDown s.prevKeys k = true) →
      step s = .next (accountTick s.poll).nextInput)

/-- R24: only LD Vx, K enters AwaitingKey, with its x as the target; and R105: only the keypad service returns to Running,
on a key that is down in this poll and was not in the previous one (R23: D13, log 13). -/
def Obligations.WaitIsEnteredAndLeftOneWay : Prop :=
  ∀ s t : State, step s = .next t →
    (∀ x, s.mode = .running → t.mode = .awaitingKey x → decode s.fetch = .ok (.ldVxK x)) ∧
    (∀ r, s.mode = .awaitingKey r → t.mode ≠ .awaitingKey r →
      t.mode = .running ∧ s.input.stop = false ∧
        ∃ k, keyDown s.input.keys k = true ∧ keyDown s.prevKeys k = false)

/-- R118: every piece of state survives a wait iteration unchanged, but for keys, prevKeys, subtick, DT and ST (with
the tick's events) and V[r], which receives the key index when the wait ends. -/
def Obligations.StateSurvivesTheWait : Prop :=
  ∀ (s t : State) (r : Reg), s.mode = .awaitingKey r → s.input.stop = false → step s = .next t →
    t = { s with
      v := t.v, vWritten := t.vWritten, keys := s.input.keys, prevKeys := s.input.keys, mode := t.mode,
      subtick := t.subtick, dt := t.dt, st := t.st, events := t.events,
      inputs := s.inputs.tail, iteration := s.iteration + 1 } ∧
    (∀ q, q ≠ r → Part.same s t (.reg q)) ∧
    (t.mode = .awaitingKey r → Part.same s t (.reg r))

/-- R107 (D18): the peripheral tick. Both timers floor at zero, the tone follows ST before its decrement, Refresh comes
last, and nothing else changes. -/
def Obligations.TickCountsDownAndDrivesTheTone : Prop :=
  ∀ s : State,
    (tick s).dt.toNat = s.dt.toNat - 1 ∧ (tick s).st.toNat = s.st.toNat - 1 ∧
    (tick s).events = s.events ++ [if s.st.toNat = 0 then .pause else .play, .refresh] ∧
    tick s = { s with dt := (tick s).dt, st := (tick s).st, events := (tick s).events }

/-- R106 (D17): over any run that is still Live, every iteration counts, modulo TICK_RATIO, in either mode; and the
accounting ticks exactly when the counter reaches TICK_RATIO. -/
def Obligations.EveryLiveIterationCountsTowardTheTick : Prop :=
  (∀ (n : Nat) (s t : State), s.subtick < s.params.tickRatio →
    runFor n s = .next t → t.status = .live →
    t.subtick = (s.subtick + n) % s.params.tickRatio ∧ t.params = s.params) ∧
  (∀ s : State,
    (s.subtick + 1 = s.params.tickRatio → accountTick s = tick (s.setSubtick 0)) ∧
    (s.subtick + 1 ≠ s.params.tickRatio → accountTick s = s.setSubtick (s.subtick + 1)))

/-! ## Faults (60_exceptions.md) -/

/-- R104: a fault of an instruction changes nothing but the status, and the iteration that raises one, or that cannot
fetch, ends without the tick accounting: only the poll of its step 1 and the status show. -/
def Obligations.FaultsArePrecise : Prop :=
  (∀ (i : Instr) (s t : State), s.status = .live → exec i s = .next t → t.status ≠ .live →
    ∃ f, t = s.setStatus (.faulted f)) ∧
  (∀ (s t : State) (f : FaultCode), step s = .next t → t.status = .faulted f →
    t = { s with
      keys := s.input.keys, prevKeys := s.input.keys, status := .faulted f,
      inputs := s.inputs.tail, iteration := s.iteration + 1 })

/-- R29, R109 (D19): reading a register without a value raises UninitialisedRead, which changes the status alone;
otherwise no instruction raises it. Under RESET_ZERO_REGS = true every register has a value; under false none has one
after construction and a write gives one. That JP V0 reads V0 and DRW with n = 0 reads I is the model's reading
(log 9, log 10). -/
def Obligations.UninitialisedReads : Prop :=
  (∀ (i : Instr) (s : State), ¬ s.readsOk i → raisesUninitialised i s) ∧
  (∀ (i : Instr) (s t : State) (r : RegName), s.status = .live → s.readsOk i → exec i s = .next t →
    t.status ≠ .faulted (.uninitialisedRead r)) ∧
  (∀ s : State, s.params.resetZeroRegs = true → ∀ r, s.hasValue r = true) ∧
  (∀ p : Config.Params, p.resetZeroRegs = false → ∀ r, (State.construct p).hasValue r = false) ∧
  (∀ (s : State) (r : Reg) (b : Byte) (w : Word),
    (s.setV r b).hasValue (.v r) = true ∧ (s.setI w).hasValue .i = true)

/-- R104, R109: no instruction stops the model. Every one answers a next state at every state, in which the status is
unchanged, or which is the state before it with a fault of the spec as its status and nothing else changed (log 7). -/
def Obligations.EveryInstructionAnswersANextState : Prop :=
  ∀ (i : Instr) (s : State), ∃ t, exec i s = .next t ∧
    (t.status = s.status ∨ ∃ f, t = s.setStatus (.faulted f))

/-! ## Who reads and writes what (10_state.md) -/

/-- R20: only CALL and RET read or write the stack or SP: any other instruction leaves both alone and does the same
whatever they hold. -/
def Obligations.OnlyCallAndRetReachTheStack : Prop :=
  ∀ (i : Instr) (s t : State) (stk : Vector Word 16) (sp : Fin 17),
    i ≠ .ret → (∀ nnn, i ≠ .call nnn) → exec i s = .next t →
    t.stack = s.stack ∧ t.sp = s.sp ∧
    exec i { s with stack := stk, sp := sp } = .next { t with stack := stk, sp := sp }

/-- R20, R28: no rule reads a stack entry at SP or above. Two states that differ only in such entries run alike, and
still differ only so. -/
def Obligations.DeadStackEntriesAreNeverRead : Prop :=
  ∀ (i : Instr) (s t : State) (stk : Vector Word 16),
    (∀ j : Fin 16, j.val < s.sp.val → stk[j.val]'j.isLt = s.stack[j.val]'j.isLt) → exec i s = .next t →
    ∃ u, exec i { s with stack := stk } = .next u ∧ u = { t with stack := u.stack } ∧
      ∀ j : Fin 16, j.val < t.sp.val → u.stack[j.val]'j.isLt = t.stack[j.val]'j.isLt

/-- R21: no instruction reads ST: with another value in ST each does the same to everything but ST, which keeps that
value unless the instruction is LD ST, Vx. -/
def Obligations.NoInstructionReadsTheSoundTimer : Prop :=
  ∀ (i : Instr) (s t : State) (b : Byte), exec i s = .next t →
    ∃ u, exec i (s.setSt b) = .next u ∧ u = { t with st := u.st } ∧
      ((∀ x, i ≠ .ldStVx x) → u.st = b ∧ t.st = s.st)

/-- R40: no instruction but DRW, LD B, LD [I] and LD Vx, [I] reaches memory: any other one leaves it alone and does
the same whatever it holds. -/
def Obligations.OnlyFourInstructionsReachMemory : Prop :=
  ∀ (i : Instr) (s t : State) (m : Memory),
    (∀ x y n, i ≠ .drw x y n) → (∀ x, i ≠ .ldBVx x) → (∀ x, i ≠ .ldMemVx x) → (∀ x, i ≠ .ldVxMem x) →
    exec i s = .next t → t.mem = s.mem ∧ exec i { s with mem := m } = .next { t with mem := m }

/-- R45: a byte stored by LD [I], Vx or LD B, Vx is seen by a later fetch, the very next one among them: the word
fetched at any two stored addresses is made of the bytes stored there. -/
def Obligations.StoresAreSeenByTheNextFetch : Prop :=
  (∀ (x k : Reg) (s t : State) (p : Word), s.memWf → s.status = .live →
    exec (.ldMemVx x) s = .next t → t.status = .live → k.toNat + 1 ≤ x.toNat → p.toNat = s.i.toNat + k.toNat →
    (t.jump p).fetch = wordOfBytes (s.getV k) (s.getV (k + 1))) ∧
  (∀ (x : Reg) (s t : State), s.memWf → s.status = .live →
    exec (.ldBVx x) s = .next t → t.status = .live →
    (t.jump s.i).fetch =
      wordOfBytes (BitVec.ofNat 8 ((s.getV x).toNat / 100)) (BitVec.ofNat 8 ((s.getV x).toNat / 10 % 10)) ∧
    (t.jump (s.i + 1)).fetch =
      wordOfBytes (BitVec.ofNat 8 ((s.getV x).toNat / 10 % 10)) (BitVec.ofNat 8 ((s.getV x).toNat % 10)))

/-! ## Invariants -/

/-- R25, R28, R31, R6: every step keeps the memory's canonical form (so no byte outside [0, 4096) is ever listed), the
sub-tick counter below TICK_RATIO, and the parameters. -/
def Obligations.StepKeepsTheStateInvariant : Prop :=
  ∀ s t : State, s.inv → step s = .next t → t.inv ∧ t.params = s.params

/-- R18: every step keeps pc at 0x10FE or below and every live stack entry at 4096 or below, so pc never wraps. -/
def Obligations.StepKeepsPcBounded : Prop :=
  ∀ s t : State, s.pcBounded → step s = .next t → t.pcBounded

/-- Both invariants hold right after reset, and after construction with any parameters whose TICK_RATIO is at
least 1. -/
def Obligations.ConstructionMeetsTheInvariants : Prop :=
  (State.reset.inv ∧ State.reset.pcBounded) ∧
  ∀ p : Config.Params, p.wellFormed = true → (State.construct p).inv ∧ (State.construct p).pcBounded

/-! ## Reset and program load -/

/-- R28, R120: the state after construction. That V0..VF, I, DT, ST and the stack entries are 0 is the spec's own
decision D19 (log 3), and the keypad's and the counter's values are D13 and D17 (log 13); pc, SP, mode and status are
the source's. -/
def Obligations.ConstructionLeavesTheResetValues : Prop :=
  ∀ p : Config.Params,
    (State.construct p).pc = 512 ∧ (State.construct p).sp = 0 ∧ (State.construct p).mode = .running ∧
    (State.construct p).status = .live ∧ (State.construct p).subtick = 0 ∧ (State.construct p).i = 0 ∧
    (State.construct p).dt = 0 ∧ (State.construct p).st = 0 ∧ (State.construct p).events = [] ∧
    (State.construct p).params = p ∧
    (∀ r : Reg, (State.construct p).getV r = 0) ∧
    (∀ j : Fin 16, (State.construct p).stack[j.val]'j.isLt = 0) ∧
    (∀ k : Key, keyDown (State.construct p).keys k = false ∧ keyDown (State.construct p).prevKeys k = false) ∧
    State.reset = State.construct Config.Params.default

/-- R33: construction puts row r of the glyph of digit d at 16*d + r, for the 80 bytes of the 16 glyphs, and every
other byte of memory holds 0. -/
def Obligations.GlyphsArePreloadedAtStrideSixteen : Prop :=
  ∀ p : Config.Params,
    (∀ (d : Fin 16) (r : Fin 5),
      (State.construct p).readByte (16 * d.val + r.val) = (p.glyphRom[d.val]'d.isLt)[r.val]'r.isLt) ∧
    (∀ a : Nat, a < 4096 → (∀ (d : Fin 16) (r : Fin 5), a ≠ 16 * d.val + r.val) →
      (State.construct p).readByte a = 0)

/-- R35 (D37 for the failed load): a program with 512 + L >= 4096 fails ProgramTooLarge and there is no machine; any
other is stored from 512 on, and nothing else of the constructed state changes. -/
def Obligations.ProgramLoad : Prop :=
  ∀ (p : Config.Params) (image : List Byte),
    (4096 ≤ 512 + image.length → boot p image = .refused (.programTooLarge image.length)) ∧
    (512 + image.length < 4096 → ∃ t, boot p image = .next t ∧
      t = { State.construct p with mem := t.mem } ∧ t.memWf ∧
      (∀ (j : Nat) (h : j < image.length), t.readByte (512 + j) = image[j]) ∧
      (∀ a : Nat, a < 512 ∨ 512 + image.length ≤ a → t.readByte a = (State.construct p).readByte a))

/-! ## Control flow and the stack (40_flow_stack.md) -/

/-- R59: JP sets pc to exactly nnn and does nothing else. -/
def Obligations.JumpSetsPcExactly : Prop :=
  ∀ (nnn : Addr12) (s : State), ∃ t, exec (.jp nnn) s = .next t ∧ t = { s with pc := t.pc } ∧
    t.pc.toNat = nnn.toNat

/-- R65 (D36): JP V0 sets pc to nnn + V0, exact: neither truncated to 12 bits nor wrapped. -/
def Obligations.JumpWithOffsetIsExact : Prop :=
  ∀ (nnn : Addr12) (s : State), s.readsOk (.jpV0 nnn) →
    ∃ t, exec (.jpV0 nnn) s = .next t ∧ t = { s with pc := t.pc } ∧
      t.pc.toNat = nnn.toNat + (s.getV 0x0).toNat

/-- R60, R57 (D5): CALL pushes a + 2 and jumps; with 16 entries in use it raises StackOverflow and changes nothing
else. -/
def Obligations.CallPushesTheReturnAddress : Prop :=
  ∀ (nnn : Addr12) (s : State),
    (s.sp.val < 16 → ∃ t, exec (.call nnn) s = .next t ∧
      t = { s with pc := t.pc, sp := t.sp, stack := t.stack } ∧
      t.pc.toNat = nnn.toNat ∧ t.sp.val = s.sp.val + 1 ∧
      (∀ j : Fin 16, t.stack[j.val]'j.isLt = if j.val = s.sp.val then s.pc + 2 else s.stack[j.val]'j.isLt)) ∧
    (s.sp.val = 16 → exec (.call nnn) s = .next (s.setStatus (.faulted (.stackOverflow s.pc))))

/-- R58, R57 (D5): RET sets pc to the top entry with no further advance and leaves the entries as they were; with none
in use it raises StackUnderflow and changes nothing else. -/
def Obligations.RetPopsTheReturnAddress : Prop :=
  ∀ s : State,
    (∀ j : Fin 16, s.sp.val = j.val + 1 → ∃ t, exec .ret s = .next t ∧
      t = { s with pc := s.stack[j.val]'j.isLt, sp := t.sp } ∧ t.sp.val = j.val) ∧
    (s.sp.val = 0 → exec .ret s = .next (s.setStatus (.faulted (.stackUnderflow s.pc))))

/-- R58, R60: a RET from any state that still has the stack a CALL left continues after that CALL, with SP as before
it. -/
def Obligations.RetContinuesAfterTheCall : Prop :=
  ∀ (nnn : Addr12) (s t body : State), s.sp.val < 16 → exec (.call nnn) s = .next t →
    body.sp = t.sp → body.stack = t.stack →
    ∃ u, exec .ret body = .next u ∧ u.pc = s.pc + 2 ∧ u.sp = s.sp ∧ u.status = body.status

/-- R60 and the source's test: from SP = 0, 16 nested calls succeed and the 17th raises StackOverflow. -/
def Obligations.SixteenNestedCallsSucceed : Prop :=
  ∀ (targets : List Addr12) (s : State), s.status = .live → s.sp.val = 0 → targets.length = 16 →
    ∃ t, callAll targets s = .next t ∧ t.status = .live ∧ t.sp.val = 16 ∧
      ∀ nnn, exec (.call nnn) t = .next (t.setStatus (.faulted (.stackOverflow t.pc)))

/-- R61, R62, R63, R64: a skip whose condition holds sets pc to a + 4, otherwise to a + 2, and changes nothing else;
an operand without a value raises UninitialisedRead. -/
def Obligations.SkipsAdvanceByFourOrTwo : Prop :=
  ∀ (x y : Reg) (kk : Byte) (s : State),
    (s.readsOk (.seVxKk x kk) → exec (.seVxKk x kk) s =
      .next { s with pc := if (s.getV x).toNat = kk.toNat then s.pc + 4 else s.pc + 2 }) ∧
    (s.readsOk (.sneVxKk x kk) → exec (.sneVxKk x kk) s =
      .next { s with pc := if (s.getV x).toNat = kk.toNat then s.pc + 2 else s.pc + 4 }) ∧
    (s.readsOk (.seVxVy x y) → exec (.seVxVy x y) s =
      .next { s with pc := if (s.getV x).toNat = (s.getV y).toNat then s.pc + 4 else s.pc + 2 }) ∧
    (s.readsOk (.sneVxVy x y) → exec (.sneVxVy x y) s =
      .next { s with pc := if (s.getV x).toNat = (s.getV y).toNat then s.pc + 2 else s.pc + 4 }) ∧
    (∀ i ∈ [Instr.seVxKk x kk, .sneVxKk x kk, .seVxVy x y, .sneVxVy x y],
      ¬ s.readsOk i → raisesUninitialised i s)

/-! ## Register loads and the ALU (41_alu.md) -/

/-- R68, R70: LD Vx, kk and LD Vx, Vy write Vx and no other register, VF among them; an operand without a value raises
UninitialisedRead. -/
def Obligations.RegisterLoads : Prop :=
  ∀ (x y : Reg) (kk : Byte) (s : State),
    (∃ t, exec (.ldVxKk x kk) s = .next t ∧ t.status = s.status ∧ t.pc = s.pc + 2 ∧ t.getV x = kk ∧
      (∀ r, r ≠ x → t.getV r = s.getV r)) ∧
    (s.readsOk (.ldVxVy x y) →
      ∃ t, exec (.ldVxVy x y) s = .next t ∧ t.status = s.status ∧ t.pc = s.pc + 2 ∧ t.getV x = s.getV y ∧
        (∀ r, r ≠ x → t.getV r = s.getV r)) ∧
    (¬ s.readsOk (.ldVxVy x y) → raisesUninitialised (.ldVxVy x y) s)

/-- R69: ADD Vx, kk wraps, discards the carry, and writes no register but Vx, VF among them. -/
def Obligations.AddImmediateWrapsWithoutFlag : Prop :=
  ∀ (x : Reg) (kk : Byte) (s : State),
    (s.readsOk (.addVxKk x kk) →
      ∃ t, exec (.addVxKk x kk) s = .next t ∧ t.status = s.status ∧ t.pc = s.pc + 2 ∧
        (t.getV x).toNat = ((s.getV x).toNat + kk.toNat) % 256 ∧ (∀ r, r ≠ x → t.getV r = s.getV r)) ∧
    (¬ s.readsOk (.addVxKk x kk) → raisesUninitialised (.addVxKk x kk) s)

/-- R71, R72, R73: OR, AND and XOR, bit by bit; no register but Vx is written, so VF only when x = 0xF, with the
result. -/
def Obligations.BitwiseOperations : Prop :=
  ∀ (x y : Reg) (s : State),
    (s.readsOk (.orVxVy x y) →
      ∃ t, exec (.orVxVy x y) s = .next t ∧ t.status = s.status ∧ t.pc = s.pc + 2 ∧
        (∀ b, (t.getV x).getLsbD b = ((s.getV x).getLsbD b || (s.getV y).getLsbD b)) ∧
        (∀ r, r ≠ x → t.getV r = s.getV r)) ∧
    (s.readsOk (.andVxVy x y) →
      ∃ t, exec (.andVxVy x y) s = .next t ∧ t.status = s.status ∧ t.pc = s.pc + 2 ∧
        (∀ b, (t.getV x).getLsbD b = ((s.getV x).getLsbD b && (s.getV y).getLsbD b)) ∧
        (∀ r, r ≠ x → t.getV r = s.getV r)) ∧
    (s.readsOk (.xorVxVy x y) →
      ∃ t, exec (.xorVxVy x y) s = .next t ∧ t.status = s.status ∧ t.pc = s.pc + 2 ∧
        (∀ b, (t.getV x).getLsbD b = ((s.getV x).getLsbD b ^^ (s.getV y).getLsbD b)) ∧
        (∀ r, r ≠ x → t.getV r = s.getV r)) ∧
    (∀ i ∈ [Instr.orVxVy x y, .andVxVy x y, .xorVxVy x y], ¬ s.readsOk i → raisesUninitialised i s)

/-- R74: ADD Vx, Vy. VF ends as the carry, also when x = 0xF; any other Vx holds the sum modulo 256. -/
def Obligations.AddSetsTheCarry : Prop :=
  ∀ (x y : Reg) (s : State),
    (s.readsOk (.addVxVy x y) →
      ∃ t, exec (.addVxVy x y) s = .next t ∧ t.status = s.status ∧ t.pc = s.pc + 2 ∧
        t.getV 0xF = (if 256 ≤ (s.getV x).toNat + (s.getV y).toNat then 1 else 0) ∧
        (x ≠ 0xF → (t.getV x).toNat = ((s.getV x).toNat + (s.getV y).toNat) % 256)) ∧
    (¬ s.readsOk (.addVxVy x y) → raisesUninitialised (.addVxVy x y) s)

/-- R75, R77: SUB and SUBN. VF ends 0 on a borrow and 1 otherwise, also when x = 0xF; any other Vx holds the
difference modulo 256. -/
def Obligations.SubtractSetsTheBorrow : Prop :=
  ∀ (x y : Reg) (s : State),
    (s.readsOk (.subVxVy x y) →
      ∃ t, exec (.subVxVy x y) s = .next t ∧ t.status = s.status ∧ t.pc = s.pc + 2 ∧
        t.getV 0xF = (if (s.getV x).toNat < (s.getV y).toNat then 0 else 1) ∧
        (x ≠ 0xF → (t.getV x).toNat = ((s.getV x).toNat + 256 - (s.getV y).toNat) % 256)) ∧
    (s.readsOk (.subn x y) →
      ∃ t, exec (.subn x y) s = .next t ∧ t.status = s.status ∧ t.pc = s.pc + 2 ∧
        t.getV 0xF = (if (s.getV y).toNat < (s.getV x).toNat then 0 else 1) ∧
        (x ≠ 0xF → (t.getV x).toNat = ((s.getV y).toNat + 256 - (s.getV x).toNat) % 256)) ∧
    (∀ i ∈ [Instr.subVxVy x y, .subn x y], ¬ s.readsOk i → raisesUninitialised i s)

/-- R76, R78, R67 (D10 for x = 0xF): SHR halves Vx and leaves its old low bit in VF; SHL doubles Vx modulo 256 and
leaves its old bit 7 in VF; y is ignored. With x = 0xF the parameter VF_SHIFT_DEST_MODE decides, and both its values are
stated. -/
def Obligations.ShiftsByOne : Prop :=
  ∀ (x y : Reg) (s : State),
    (s.readsOk (.shr x y) →
      ∃ t, exec (.shr x y) s = .next t ∧ t.status = s.status ∧ t.pc = s.pc + 2 ∧
        (x ≠ 0xF → (t.getV x).toNat = (s.getV x).toNat / 2 ∧ (t.getV 0xF).toNat = (s.getV x).toNat % 2) ∧
        (x = 0xF → s.params.vfShiftDestMode = .sequential → (t.getV 0xF).toNat = 0) ∧
        (x = 0xF → s.params.vfShiftDestMode = .snapshot → (t.getV 0xF).toNat = (s.getV 0xF).toNat / 2)) ∧
    (s.readsOk (.shl x y) →
      ∃ t, exec (.shl x y) s = .next t ∧ t.status = s.status ∧ t.pc = s.pc + 2 ∧
        (x ≠ 0xF → (t.getV x).toNat = 2 * (s.getV x).toNat % 256 ∧ (t.getV 0xF).toNat = (s.getV x).toNat / 128) ∧
        (x = 0xF → s.params.vfShiftDestMode = .sequential →
          (t.getV 0xF).toNat = 2 * ((s.getV 0xF).toNat / 128)) ∧
        (x = 0xF → s.params.vfShiftDestMode = .snapshot →
          (t.getV 0xF).toNat = 2 * (s.getV 0xF).toNat % 256))

/-- R79 (D22): RND leaves the iteration's random byte, whatever it is, masked with kk, and writes no other register. -/
def Obligations.RandomByteIsMasked : Prop :=
  ∀ (x : Reg) (kk : Byte) (s : State),
    ∃ t, exec (.rnd x kk) s = .next t ∧ t.status = s.status ∧ t.pc = s.pc + 2 ∧
      (∀ b, (t.getV x).getLsbD b = (s.input.random.getLsbD b && kk.getLsbD b)) ∧
      (∀ r, r ≠ x → t.getV r = s.getV r)

/-! ## Index register and memory transfers (42_index_memory.md) -/

/-- R81, R82 (D7), R83 (D35): LD I, nnn; ADD I, Vx modulo 65536 with no flag; LD F, Vx is 16 * Vx, unmasked. -/
def Obligations.IndexRegisterWrites : Prop :=
  ∀ (nnn : Addr12) (x : Reg) (s : State),
    (∃ t, exec (.ldINnn nnn) s = .next t ∧ t.status = s.status ∧ t.pc = s.pc + 2 ∧ t.i.toNat = nnn.toNat) ∧
    (s.readsOk (.addIVx x) →
      ∃ t, exec (.addIVx x) s = .next t ∧ t.status = s.status ∧ t.pc = s.pc + 2 ∧
        t.i.toNat = (s.i.toNat + (s.getV x).toNat) % 65536 ∧ t.getV 0xF = s.getV 0xF) ∧
    (s.readsOk (.ldFVx x) →
      ∃ t, exec (.ldFVx x) s = .next t ∧ t.status = s.status ∧ t.pc = s.pc + 2 ∧
        t.i.toNat = 16 * (s.getV x).toNat)

/-- R84 (D8, D9): LD B stores the hundreds, tens and ones of Vx at I, I + 1, I + 2 and leaves I; past address 4095 it
raises MemoryOutOfRange with nothing written. -/
def Obligations.DecimalDigitsAreStored : Prop :=
  ∀ (x : Reg) (s : State), s.memWf → s.readsOk (.ldBVx x) →
    (s.i.toNat + 2 ≤ 4095 →
      ∃ t, exec (.ldBVx x) s = .next t ∧ t.status = s.status ∧ t.pc = s.pc + 2 ∧ t.i = s.i ∧
        (t.readByte s.i.toNat).toNat = (s.getV x).toNat / 100 ∧
        (t.readByte (s.i.toNat + 1)).toNat = (s.getV x).toNat / 10 % 10 ∧
        (t.readByte (s.i.toNat + 2)).toNat = (s.getV x).toNat % 10) ∧
    (4095 < s.i.toNat + 2 →
      exec (.ldBVx x) s = .next (s.setStatus (.faulted (.memoryOutOfRange s.i 3))))

/-- R85 (D8, D9): LD [I], Vx stores V0..Vx at I..I + x and leaves I; past address 4095 it raises MemoryOutOfRange with
nothing written. -/
def Obligations.RegistersAreStored : Prop :=
  ∀ (x : Reg) (s : State), s.memWf → s.readsOk (.ldMemVx x) →
    (s.i.toNat + x.toNat ≤ 4095 →
      ∃ t, exec (.ldMemVx x) s = .next t ∧ t.status = s.status ∧ t.pc = s.pc + 2 ∧ t.i = s.i ∧
        ∀ k : Reg, k.toNat ≤ x.toNat → t.readByte (s.i.toNat + k.toNat) = s.getV k) ∧
    (4095 < s.i.toNat + x.toNat →
      exec (.ldMemVx x) s = .next (s.setStatus (.faulted (.memoryOutOfRange s.i (x.toNat + 1)))))

/-- R86 (D8, D9): LD Vx, [I] loads V0..Vx from I..I + x and leaves I; past address 4095 it raises MemoryOutOfRange with
no register written. -/
def Obligations.RegistersAreLoaded : Prop :=
  ∀ (x : Reg) (s : State), s.readsOk (.ldVxMem x) →
    (s.i.toNat + x.toNat ≤ 4095 →
      ∃ t, exec (.ldVxMem x) s = .next t ∧ t.status = s.status ∧ t.pc = s.pc + 2 ∧ t.i = s.i ∧
        ∀ k : Reg, k.toNat ≤ x.toNat → t.getV k = s.readByte (s.i.toNat + k.toNat)) ∧
    (4095 < s.i.toNat + x.toNat →
      exec (.ldVxMem x) s = .next (s.setStatus (.faulted (.memoryOutOfRange s.i (x.toNat + 1)))))

/-- R85, R86, R43: registers stored and later loaded back through the I that stands after the store, with memory and I
untouched in between, are what they were, whatever the registers held in between. It rests on LD [I], Vx leaving I
unchanged, the spec's own decision D9 (log 24). -/
def Obligations.StoredRegistersLoadBack : Prop :=
  ∀ (x : Reg) (s t between u : State), s.memWf → s.status = .live → exec (.ldMemVx x) s = .next t → t.status = .live →
    between.mem = t.mem → between.params = t.params → between.i = t.i → between.iWritten = t.iWritten →
    exec (.ldVxMem x) between = .next u →
    ∀ k : Reg, k.toNat ≤ x.toNat → u.getV k = s.getV k

/-! ## Display, keypad and timers (43_display.md, 44_keypad_timer.md) -/

/-- R88: CLS emits Clear and advances pc; nothing else of the block changes. -/
def Obligations.ClearEmitsOneEvent : Prop :=
  ∀ s : State, exec .cls s = .next { s with events := s.events ++ [.clear], pc := s.pc + 2 }

/-- R89 (D29, D30): DRW emits one Draw with the n bytes at I and the unreduced old Vx and Vy, then VF is the display's
answer; past address 4095 (with n > 0) it raises MemoryOutOfRange with no Draw. That n = 0 reads I as an operand is the
model's reading (log 10). -/
def Obligations.DrawEmitsTheSprite : Prop :=
  ∀ (x y : Reg) (n : Nib) (s : State), s.readsOk (.drw x y n) →
    (n.toNat = 0 ∨ s.i.toNat + n.toNat ≤ 4096 →
      ∃ t, exec (.drw x y n) s = .next t ∧ t.status = s.status ∧ t.pc = s.pc + 2 ∧
        t.getV 0xF = (if s.input.collision then 1 else 0) ∧
        ∃ bytes : List Byte, t.events = s.events ++ [.draw bytes (s.getV x) (s.getV y)] ∧
          bytes.length = n.toNat ∧ ∀ (j : Nat) (h : j < bytes.length), bytes[j] = s.readByte (s.i.toNat + j)) ∧
    (0 < n.toNat → 4096 < s.i.toNat + n.toNat →
      exec (.drw x y n) s = .next (s.setStatus (.faulted (.memoryOutOfRange s.i n.toNat))))

/-- R91, R92, R93 (D12): SKP and SKNP test the level of key Vx and change pc alone; a value above 15 raises
KeyIndexOutOfRange. -/
def Obligations.KeySkipsTestTheLevel : Prop :=
  ∀ (x : Reg) (s : State), s.readsOk (.skp x) →
    (∀ k : Key, (s.getV x).toNat = k.toNat →
      exec (.skp x) s = .next { s with pc := if keyDown s.keys k then s.pc + 4 else s.pc + 2 } ∧
      exec (.sknp x) s = .next { s with pc := if keyDown s.keys k then s.pc + 2 else s.pc + 4 }) ∧
    (15 < (s.getV x).toNat →
      exec (.skp x) s = .next (s.setStatus (.faulted (.keyIndexOutOfRange (s.getV x)))) ∧
      exec (.sknp x) s = .next (s.setStatus (.faulted (.keyIndexOutOfRange (s.getV x)))))

/-- R94, R96, R97: reading DT and setting DT and ST; no event here; an operand without a value raises
UninitialisedRead. -/
def Obligations.TimersAreReadAndSet : Prop :=
  ∀ (x : Reg) (s : State),
    (∃ t, exec (.ldVxDt x) s = .next t ∧ t.status = s.status ∧ t.pc = s.pc + 2 ∧ t.events = s.events ∧
      t.getV x = s.dt ∧ (∀ r, r ≠ x → t.getV r = s.getV r)) ∧
    (s.readsOk (.ldDtVx x) → exec (.ldDtVx x) s = .next { s with dt := s.getV x, pc := s.pc + 2 }) ∧
    (s.readsOk (.ldStVx x) → exec (.ldStVx x) s = .next { s with st := s.getV x, pc := s.pc + 2 }) ∧
    (∀ i ∈ [Instr.ldDtVx x, .ldStVx x], ¬ s.readsOk i → raisesUninitialised i s)

/-- R95 (D16): LD Vx, K enters AwaitingKey(x) and advances pc; Vx is not written. -/
def Obligations.WaitForKeySuspends : Prop :=
  ∀ (x : Reg) (s : State), exec (.ldVxK x) s = .next { s with mode := .awaitingKey x, pc := s.pc + 2 }

/-! ## Frames -/

/-- 40_flow_stack.md: RET and CALL write the stack and SP; JP, JP V0 and the skips write nothing but pc. -/
def Obligations.FlowFrame : Prop :=
  ∀ (i : Instr) (s t : State), familyOf i = .flow → exec i s = .next t → Frame (mayWrite i s) s t

/-- 41_alu.md: the loads, ADD Vx, kk, OR, AND, XOR and RND write Vx alone; ADD, SUB, SUBN, SHR and SHL write Vx and VF
alone. -/
def Obligations.AluFrame : Prop :=
  ∀ (i : Instr) (s t : State), familyOf i = .alu → exec i s = .next t → Frame (mayWrite i s) s t

/-- 42_index_memory.md: LD I, ADD I and LD F write I alone; LD B writes the bytes I..I + 2 alone, LD [I], Vx the bytes
I..I + x, LD Vx, [I] the registers V0..Vx. -/
def Obligations.IndexMemoryFrame : Prop :=
  ∀ (i : Instr) (s t : State), s.memWf → familyOf i = .indexMemory → exec i s = .next t → Frame (mayWrite i s) s t

/-- 43_display.md, 44_keypad_timer.md: CLS writes the event list alone, DRW the event list and VF; SKP and SKNP write
nothing but pc; LD Vx, DT writes Vx alone, LD Vx, K the mode, LD DT, Vx DT, LD ST, Vx ST. -/
def Obligations.DisplayKeypadTimerFrame : Prop :=
  ∀ (i : Instr) (s t : State), familyOf i = .display ∨ familyOf i = .keypadTimer → exec i s = .next t →
    Frame (mayWrite i s) s t

/-! ## The display beside the block (43_display.md R87, R90) -/

/-- R87: the block sees the display only through the collision flag, and that reaches VF alone: with another answer a
step differs in no other register, event or piece of state. (So the composition of R90 may find the Draw first and
answer it after.) -/
def Obligations.CollisionAnswerReachesVfAlone : Prop :=
  ∀ (s t : State) (c : Bool), step (s.answerDraw false) = .next t →
    ∃ u, step (s.answerDraw c) = .next u ∧ u = { t with v := u.v } ∧ ∀ r : Reg, r ≠ 0xF → u.getV r = t.getV r

/-- R90 (D23): XOR-blit: drawing the same sprite at the same place again restores the plane, for any size of the
display. -/
def Obligations.DrawingTwiceRestoresThePlane : Prop :=
  ∀ (d : Display) (bytes : List Byte) (x y : Byte), ((d.draw bytes x y).1.draw bytes x y).1 = d
end

