-- ==== Sys2Proof/Laws/Decode.lean ====
section
/-!
SUPPORT. The decoder's fields of the encoder's words (spec/30_encoding.md R47, R48), by the words' values as numbers:
what the round trip of decode and encode rests on.
-/
namespace Sys2Proof

/-- Two bit vectors one after the other, as a number. -/
theorem toNat_append_eq {m n : Nat} (a : BitVec m) (b : BitVec n) :
    (a ++ b).toNat = a.toNat * 2 ^ n + b.toNat := by
  rw [BitVec.toNat_append, ← Nat.shiftLeft_add_eq_or_of_lt b.isLt, Nat.shiftLeft_eq]

theorem wordXkk_toNat (op : Nib) (x : Reg) (kk : Byte) :
    (wordXkk op x kk).toNat = op.toNat * 4096 + x.toNat * 256 + kk.toNat := by
  simp only [wordXkk, toNat_append_eq]; omega

theorem wordXyn_toNat (op : Nib) (x y : Reg) (n : Nib) :
    (wordXyn op x y n).toNat = op.toNat * 4096 + x.toNat * 256 + y.toNat * 16 + n.toNat := by
  simp only [wordXyn, toNat_append_eq]; omega

theorem wordNnn_toNat (op : Nib) (nnn : Addr12) : (wordNnn op nnn).toNat = op.toNat * 4096 + nnn.toNat := by
  simp only [wordNnn, toNat_append_eq]; omega

/-! ## The fields of a word, as numbers (R47) -/

variable (w : Word)

/-- A field as a number: the nibbles below it dropped, those above it masked off (R48). -/
theorem field_toNat (count offset : Nat) :
    (field w count offset).toNat = w.toNat >>> (4 * offset) % 2 ^ (4 * count) := by
  simp [field, BitVec.extractLsb']

theorem fieldOp_toNat : (fieldOp w).toNat = w.toNat / 4096 % 16 := by
  simp [fieldOp, field, BitVec.extractLsb', Nat.shiftRight_eq_div_pow]
theorem fieldX_toNat : (fieldX w).toNat = w.toNat / 256 % 16 := by
  simp [fieldX, field, BitVec.extractLsb', Nat.shiftRight_eq_div_pow]
theorem fieldY_toNat : (fieldY w).toNat = w.toNat / 16 % 16 := by
  simp [fieldY, field, BitVec.extractLsb', Nat.shiftRight_eq_div_pow]
theorem fieldN_toNat : (fieldN w).toNat = w.toNat % 16 := by
  simp [fieldN, field, BitVec.extractLsb']
theorem fieldKk_toNat : (fieldKk w).toNat = w.toNat % 256 := by
  simp [fieldKk, field, BitVec.extractLsb']
theorem fieldNnn_toNat : (fieldNnn w).toNat = w.toNat % 4096 := by
  simp [fieldNnn, field, BitVec.extractLsb']

/-! ## The fields of the encoder's words -/

variable (op : Nib) (x y : Reg) (n : Nib) (kk : Byte) (nnn : Addr12)

@[simp] theorem fieldOp_wordXkk : fieldOp (wordXkk op x kk) = op := by
  apply BitVec.eq_of_toNat_eq; rw [fieldOp_toNat, wordXkk_toNat]; omega
@[simp] theorem fieldX_wordXkk : fieldX (wordXkk op x kk) = x := by
  apply BitVec.eq_of_toNat_eq; rw [fieldX_toNat, wordXkk_toNat]; omega
@[simp] theorem fieldKk_wordXkk : fieldKk (wordXkk op x kk) = kk := by
  apply BitVec.eq_of_toNat_eq; rw [fieldKk_toNat, wordXkk_toNat]; omega
@[simp] theorem fieldOp_wordXyn : fieldOp (wordXyn op x y n) = op := by
  apply BitVec.eq_of_toNat_eq; rw [fieldOp_toNat, wordXyn_toNat]; omega
@[simp] theorem fieldX_wordXyn : fieldX (wordXyn op x y n) = x := by
  apply BitVec.eq_of_toNat_eq; rw [fieldX_toNat, wordXyn_toNat]; omega
@[simp] theorem fieldY_wordXyn : fieldY (wordXyn op x y n) = y := by
  apply BitVec.eq_of_toNat_eq; rw [fieldY_toNat, wordXyn_toNat]; omega
@[simp] theorem fieldN_wordXyn : fieldN (wordXyn op x y n) = n := by
  apply BitVec.eq_of_toNat_eq; rw [fieldN_toNat, wordXyn_toNat]; omega
@[simp] theorem fieldOp_wordNnn : fieldOp (wordNnn op nnn) = op := by
  apply BitVec.eq_of_toNat_eq; rw [fieldOp_toNat, wordNnn_toNat]; omega
@[simp] theorem fieldNnn_wordNnn : fieldNnn (wordNnn op nnn) = nnn := by
  apply BitVec.eq_of_toNat_eq; rw [fieldNnn_toNat, wordNnn_toNat]; omega

/-! ## A word from its fields -/

theorem wordXkk_fields : wordXkk (fieldOp w) (fieldX w) (fieldKk w) = w := by
  apply BitVec.eq_of_toNat_eq; rw [wordXkk_toNat, fieldOp_toNat, fieldX_toNat, fieldKk_toNat]; omega
theorem wordXyn_fields : wordXyn (fieldOp w) (fieldX w) (fieldY w) (fieldN w) = w := by
  apply BitVec.eq_of_toNat_eq
  rw [wordXyn_toNat, fieldOp_toNat, fieldX_toNat, fieldY_toNat, fieldN_toNat]; omega
theorem wordNnn_fields : wordNnn (fieldOp w) (fieldNnn w) = w := by
  apply BitVec.eq_of_toNat_eq; rw [wordNnn_toNat, fieldOp_toNat, fieldNnn_toNat]; omega

/-! ## The table's masks -/

theorem wordNnn_getLsbD (i : Nat) :
    (wordNnn op nnn).getLsbD i = if i < 12 then nnn.getLsbD i else op.getLsbD (i - 12) := BitVec.getLsbD_append
theorem wordXkk_getLsbD (i : Nat) :
    (wordXkk op x kk).getLsbD i = if i < 12 then (x ++ kk).getLsbD i else op.getLsbD (i - 12) :=
  BitVec.getLsbD_append
theorem wordXyn_getLsbD (i : Nat) :
    (wordXyn op x y n).getLsbD i = if i < 12 then (x ++ (y ++ n)).getLsbD i else op.getLsbD (i - 12) :=
  BitVec.getLsbD_append

theorem fieldOp_getLsbD (i : Nat) : (fieldOp w).getLsbD i = (decide (i < 4) && w.getLsbD (12 + i)) :=
  BitVec.getLsbD_extractLsb' _ _ w i
theorem fieldN_getLsbD (i : Nat) : (fieldN w).getLsbD i = (decide (i < 4) && w.getLsbD (0 + i)) :=
  BitVec.getLsbD_extractLsb' _ _ w i
theorem fieldKk_getLsbD (i : Nat) : (fieldKk w).getLsbD i = (decide (i < 8) && w.getLsbD (0 + i)) :=
  BitVec.getLsbD_extractLsb' _ _ w i

/-- The mask of the formats nnn, xkk and xyn keeps the opcode family. -/
theorem and_mask_op : w &&& 0xF000#16 = wordNnn (fieldOp w) 0 := by
  refine BitVec.eq_of_getLsbD_eq fun i hi => ?_
  rw [BitVec.getLsbD_and, wordNnn_getLsbD, fieldOp_getLsbD]
  interval_cases i <;> simp

/-- The mask of the format xy keeps the opcode family and the low nibble. -/
theorem and_mask_op_n : w &&& 0xF00F#16 = wordXyn (fieldOp w) 0 0 (fieldN w) := by
  refine BitVec.eq_of_getLsbD_eq fun i hi => ?_
  rw [BitVec.getLsbD_and, wordXyn_getLsbD, BitVec.getLsbD_append, BitVec.getLsbD_append, fieldOp_getLsbD, fieldN_getLsbD]
  interval_cases i <;> simp

/-- The mask of the format x keeps the opcode family and the low byte. -/
theorem and_mask_op_kk : w &&& 0xF0FF#16 = wordXkk (fieldOp w) 0 (fieldKk w) := by
  refine BitVec.eq_of_getLsbD_eq fun i hi => ?_
  rw [BitVec.getLsbD_and, wordXkk_getLsbD, BitVec.getLsbD_append, fieldOp_getLsbD, fieldKk_getLsbD]
  interval_cases i <;> simp

/-! ## Bytes of a word -/

/-- The word of two bytes: the first is its high byte (R36, R37). -/
theorem wordOfBytes_toNat (hi lo : Byte) : (wordOfBytes hi lo).toNat = 256 * hi.toNat + lo.toNat := by
  simp only [wordOfBytes, toNat_append_eq]
  omega

/-- Laying a word out big-endian and reading it back gives the word (R36). -/
@[simp] theorem wordOfBytes_bytes : wordOfBytes (highByte w) (lowByte w) = w := by
  apply BitVec.eq_of_toNat_eq
  simp only [wordOfBytes, toNat_append_eq, highByte, lowByte, BitVec.extractLsb', BitVec.toNat_ofNat,
    Nat.shiftRight_eq_div_pow, Nat.pow_zero, Nat.div_one]
  omega

end Sys2Proof
end

