-- ==== Sys2Proof/Laws/State.lean ====
section
/-!
SUPPORT. One lemma per field per named update of the state, each true by rfl, so that no proof unfolds a record
update; then the accessors V[r], the flag and the operand checks over those updates.
-/
namespace Sys2Proof.Machine

variable (s : State)

/-! ### setStatus -/

@[simp] theorem State.setStatus_params (x : Status) : (s.setStatus x).params = s.params := rfl
@[simp] theorem State.setStatus_mem (x : Status) : (s.setStatus x).mem = s.mem := rfl
@[simp] theorem State.setStatus_v (x : Status) : (s.setStatus x).v = s.v := rfl
@[simp] theorem State.setStatus_vWritten (x : Status) : (s.setStatus x).vWritten = s.vWritten := rfl
@[simp] theorem State.setStatus_i (x : Status) : (s.setStatus x).i = s.i := rfl
@[simp] theorem State.setStatus_iWritten (x : Status) : (s.setStatus x).iWritten = s.iWritten := rfl
@[simp] theorem State.setStatus_pc (x : Status) : (s.setStatus x).pc = s.pc := rfl
@[simp] theorem State.setStatus_stack (x : Status) : (s.setStatus x).stack = s.stack := rfl
@[simp] theorem State.setStatus_sp (x : Status) : (s.setStatus x).sp = s.sp := rfl
@[simp] theorem State.setStatus_dt (x : Status) : (s.setStatus x).dt = s.dt := rfl
@[simp] theorem State.setStatus_st (x : Status) : (s.setStatus x).st = s.st := rfl
@[simp] theorem State.setStatus_keys (x : Status) : (s.setStatus x).keys = s.keys := rfl
@[simp] theorem State.setStatus_prevKeys (x : Status) : (s.setStatus x).prevKeys = s.prevKeys := rfl
@[simp] theorem State.setStatus_mode (x : Status) : (s.setStatus x).mode = s.mode := rfl
@[simp] theorem State.setStatus_subtick (x : Status) : (s.setStatus x).subtick = s.subtick := rfl
@[simp] theorem State.setStatus_status (x : Status) : (s.setStatus x).status = x := rfl
@[simp] theorem State.setStatus_events (x : Status) : (s.setStatus x).events = s.events := rfl
@[simp] theorem State.setStatus_inputs (x : Status) : (s.setStatus x).inputs = s.inputs := rfl
@[simp] theorem State.setStatus_iteration (x : Status) : (s.setStatus x).iteration = s.iteration := rfl

/-! ### setI -/

@[simp] theorem State.setI_params (w : Word) : (s.setI w).params = s.params := rfl
@[simp] theorem State.setI_mem (w : Word) : (s.setI w).mem = s.mem := rfl
@[simp] theorem State.setI_v (w : Word) : (s.setI w).v = s.v := rfl
@[simp] theorem State.setI_vWritten (w : Word) : (s.setI w).vWritten = s.vWritten := rfl
@[simp] theorem State.setI_i (w : Word) : (s.setI w).i = w := rfl
@[simp] theorem State.setI_iWritten (w : Word) : (s.setI w).iWritten = true := rfl
@[simp] theorem State.setI_pc (w : Word) : (s.setI w).pc = s.pc := rfl
@[simp] theorem State.setI_stack (w : Word) : (s.setI w).stack = s.stack := rfl
@[simp] theorem State.setI_sp (w : Word) : (s.setI w).sp = s.sp := rfl
@[simp] theorem State.setI_dt (w : Word) : (s.setI w).dt = s.dt := rfl
@[simp] theorem State.setI_st (w : Word) : (s.setI w).st = s.st := rfl
@[simp] theorem State.setI_keys (w : Word) : (s.setI w).keys = s.keys := rfl
@[simp] theorem State.setI_prevKeys (w : Word) : (s.setI w).prevKeys = s.prevKeys := rfl
@[simp] theorem State.setI_mode (w : Word) : (s.setI w).mode = s.mode := rfl
@[simp] theorem State.setI_subtick (w : Word) : (s.setI w).subtick = s.subtick := rfl
@[simp] theorem State.setI_status (w : Word) : (s.setI w).status = s.status := rfl
@[simp] theorem State.setI_events (w : Word) : (s.setI w).events = s.events := rfl
@[simp] theorem State.setI_inputs (w : Word) : (s.setI w).inputs = s.inputs := rfl
@[simp] theorem State.setI_iteration (w : Word) : (s.setI w).iteration = s.iteration := rfl

/-! ### setDt -/

@[simp] theorem State.setDt_params (b : Byte) : (s.setDt b).params = s.params := rfl
@[simp] theorem State.setDt_mem (b : Byte) : (s.setDt b).mem = s.mem := rfl
@[simp] theorem State.setDt_v (b : Byte) : (s.setDt b).v = s.v := rfl
@[simp] theorem State.setDt_vWritten (b : Byte) : (s.setDt b).vWritten = s.vWritten := rfl
@[simp] theorem State.setDt_i (b : Byte) : (s.setDt b).i = s.i := rfl
@[simp] theorem State.setDt_iWritten (b : Byte) : (s.setDt b).iWritten = s.iWritten := rfl
@[simp] theorem State.setDt_pc (b : Byte) : (s.setDt b).pc = s.pc := rfl
@[simp] theorem State.setDt_stack (b : Byte) : (s.setDt b).stack = s.stack := rfl
@[simp] theorem State.setDt_sp (b : Byte) : (s.setDt b).sp = s.sp := rfl
@[simp] theorem State.setDt_dt (b : Byte) : (s.setDt b).dt = b := rfl
@[simp] theorem State.setDt_st (b : Byte) : (s.setDt b).st = s.st := rfl
@[simp] theorem State.setDt_keys (b : Byte) : (s.setDt b).keys = s.keys := rfl
@[simp] theorem State.setDt_prevKeys (b : Byte) : (s.setDt b).prevKeys = s.prevKeys := rfl
@[simp] theorem State.setDt_mode (b : Byte) : (s.setDt b).mode = s.mode := rfl
@[simp] theorem State.setDt_subtick (b : Byte) : (s.setDt b).subtick = s.subtick := rfl
@[simp] theorem State.setDt_status (b : Byte) : (s.setDt b).status = s.status := rfl
@[simp] theorem State.setDt_events (b : Byte) : (s.setDt b).events = s.events := rfl
@[simp] theorem State.setDt_inputs (b : Byte) : (s.setDt b).inputs = s.inputs := rfl
@[simp] theorem State.setDt_iteration (b : Byte) : (s.setDt b).iteration = s.iteration := rfl

/-! ### setSt -/

@[simp] theorem State.setSt_params (b : Byte) : (s.setSt b).params = s.params := rfl
@[simp] theorem State.setSt_mem (b : Byte) : (s.setSt b).mem = s.mem := rfl
@[simp] theorem State.setSt_v (b : Byte) : (s.setSt b).v = s.v := rfl
@[simp] theorem State.setSt_vWritten (b : Byte) : (s.setSt b).vWritten = s.vWritten := rfl
@[simp] theorem State.setSt_i (b : Byte) : (s.setSt b).i = s.i := rfl
@[simp] theorem State.setSt_iWritten (b : Byte) : (s.setSt b).iWritten = s.iWritten := rfl
@[simp] theorem State.setSt_pc (b : Byte) : (s.setSt b).pc = s.pc := rfl
@[simp] theorem State.setSt_stack (b : Byte) : (s.setSt b).stack = s.stack := rfl
@[simp] theorem State.setSt_sp (b : Byte) : (s.setSt b).sp = s.sp := rfl
@[simp] theorem State.setSt_dt (b : Byte) : (s.setSt b).dt = s.dt := rfl
@[simp] theorem State.setSt_st (b : Byte) : (s.setSt b).st = b := rfl
@[simp] theorem State.setSt_keys (b : Byte) : (s.setSt b).keys = s.keys := rfl
@[simp] theorem State.setSt_prevKeys (b : Byte) : (s.setSt b).prevKeys = s.prevKeys := rfl
@[simp] theorem State.setSt_mode (b : Byte) : (s.setSt b).mode = s.mode := rfl
@[simp] theorem State.setSt_subtick (b : Byte) : (s.setSt b).subtick = s.subtick := rfl
@[simp] theorem State.setSt_status (b : Byte) : (s.setSt b).status = s.status := rfl
@[simp] theorem State.setSt_events (b : Byte) : (s.setSt b).events = s.events := rfl
@[simp] theorem State.setSt_inputs (b : Byte) : (s.setSt b).inputs = s.inputs := rfl
@[simp] theorem State.setSt_iteration (b : Byte) : (s.setSt b).iteration = s.iteration := rfl

/-! ### setMode -/

@[simp] theorem State.setMode_params (m : Mode) : (s.setMode m).params = s.params := rfl
@[simp] theorem State.setMode_mem (m : Mode) : (s.setMode m).mem = s.mem := rfl
@[simp] theorem State.setMode_v (m : Mode) : (s.setMode m).v = s.v := rfl
@[simp] theorem State.setMode_vWritten (m : Mode) : (s.setMode m).vWritten = s.vWritten := rfl
@[simp] theorem State.setMode_i (m : Mode) : (s.setMode m).i = s.i := rfl
@[simp] theorem State.setMode_iWritten (m : Mode) : (s.setMode m).iWritten = s.iWritten := rfl
@[simp] theorem State.setMode_pc (m : Mode) : (s.setMode m).pc = s.pc := rfl
@[simp] theorem State.setMode_stack (m : Mode) : (s.setMode m).stack = s.stack := rfl
@[simp] theorem State.setMode_sp (m : Mode) : (s.setMode m).sp = s.sp := rfl
@[simp] theorem State.setMode_dt (m : Mode) : (s.setMode m).dt = s.dt := rfl
@[simp] theorem State.setMode_st (m : Mode) : (s.setMode m).st = s.st := rfl
@[simp] theorem State.setMode_keys (m : Mode) : (s.setMode m).keys = s.keys := rfl
@[simp] theorem State.setMode_prevKeys (m : Mode) : (s.setMode m).prevKeys = s.prevKeys := rfl
@[simp] theorem State.setMode_mode (m : Mode) : (s.setMode m).mode = m := rfl
@[simp] theorem State.setMode_subtick (m : Mode) : (s.setMode m).subtick = s.subtick := rfl
@[simp] theorem State.setMode_status (m : Mode) : (s.setMode m).status = s.status := rfl
@[simp] theorem State.setMode_events (m : Mode) : (s.setMode m).events = s.events := rfl
@[simp] theorem State.setMode_inputs (m : Mode) : (s.setMode m).inputs = s.inputs := rfl
@[simp] theorem State.setMode_iteration (m : Mode) : (s.setMode m).iteration = s.iteration := rfl

/-! ### jump -/

@[simp] theorem State.jump_params (a : Word) : (s.jump a).params = s.params := rfl
@[simp] theorem State.jump_mem (a : Word) : (s.jump a).mem = s.mem := rfl
@[simp] theorem State.jump_v (a : Word) : (s.jump a).v = s.v := rfl
@[simp] theorem State.jump_vWritten (a : Word) : (s.jump a).vWritten = s.vWritten := rfl
@[simp] theorem State.jump_i (a : Word) : (s.jump a).i = s.i := rfl
@[simp] theorem State.jump_iWritten (a : Word) : (s.jump a).iWritten = s.iWritten := rfl
@[simp] theorem State.jump_pc (a : Word) : (s.jump a).pc = a := rfl
@[simp] theorem State.jump_stack (a : Word) : (s.jump a).stack = s.stack := rfl
@[simp] theorem State.jump_sp (a : Word) : (s.jump a).sp = s.sp := rfl
@[simp] theorem State.jump_dt (a : Word) : (s.jump a).dt = s.dt := rfl
@[simp] theorem State.jump_st (a : Word) : (s.jump a).st = s.st := rfl
@[simp] theorem State.jump_keys (a : Word) : (s.jump a).keys = s.keys := rfl
@[simp] theorem State.jump_prevKeys (a : Word) : (s.jump a).prevKeys = s.prevKeys := rfl
@[simp] theorem State.jump_mode (a : Word) : (s.jump a).mode = s.mode := rfl
@[simp] theorem State.jump_subtick (a : Word) : (s.jump a).subtick = s.subtick := rfl
@[simp] theorem State.jump_status (a : Word) : (s.jump a).status = s.status := rfl
@[simp] theorem State.jump_events (a : Word) : (s.jump a).events = s.events := rfl
@[simp] theorem State.jump_inputs (a : Word) : (s.jump a).inputs = s.inputs := rfl
@[simp] theorem State.jump_iteration (a : Word) : (s.jump a).iteration = s.iteration := rfl

/-! ### advance -/

@[simp] theorem State.advance_params : (s.advance).params = s.params := rfl
@[simp] theorem State.advance_mem : (s.advance).mem = s.mem := rfl
@[simp] theorem State.advance_v : (s.advance).v = s.v := rfl
@[simp] theorem State.advance_vWritten : (s.advance).vWritten = s.vWritten := rfl
@[simp] theorem State.advance_i : (s.advance).i = s.i := rfl
@[simp] theorem State.advance_iWritten : (s.advance).iWritten = s.iWritten := rfl
@[simp] theorem State.advance_pc : (s.advance).pc = s.pc + 2 := rfl
@[simp] theorem State.advance_stack : (s.advance).stack = s.stack := rfl
@[simp] theorem State.advance_sp : (s.advance).sp = s.sp := rfl
@[simp] theorem State.advance_dt : (s.advance).dt = s.dt := rfl
@[simp] theorem State.advance_st : (s.advance).st = s.st := rfl
@[simp] theorem State.advance_keys : (s.advance).keys = s.keys := rfl
@[simp] theorem State.advance_prevKeys : (s.advance).prevKeys = s.prevKeys := rfl
@[simp] theorem State.advance_mode : (s.advance).mode = s.mode := rfl
@[simp] theorem State.advance_subtick : (s.advance).subtick = s.subtick := rfl
@[simp] theorem State.advance_status : (s.advance).status = s.status := rfl
@[simp] theorem State.advance_events : (s.advance).events = s.events := rfl
@[simp] theorem State.advance_inputs : (s.advance).inputs = s.inputs := rfl
@[simp] theorem State.advance_iteration : (s.advance).iteration = s.iteration := rfl

/-! ### skipIf -/

@[simp] theorem State.skipIf_params (c : Bool) : (s.skipIf c).params = s.params := rfl
@[simp] theorem State.skipIf_mem (c : Bool) : (s.skipIf c).mem = s.mem := rfl
@[simp] theorem State.skipIf_v (c : Bool) : (s.skipIf c).v = s.v := rfl
@[simp] theorem State.skipIf_vWritten (c : Bool) : (s.skipIf c).vWritten = s.vWritten := rfl
@[simp] theorem State.skipIf_i (c : Bool) : (s.skipIf c).i = s.i := rfl
@[simp] theorem State.skipIf_iWritten (c : Bool) : (s.skipIf c).iWritten = s.iWritten := rfl
@[simp] theorem State.skipIf_pc (c : Bool) : (s.skipIf c).pc = if c then s.pc + 4 else s.pc + 2 := rfl
@[simp] theorem State.skipIf_stack (c : Bool) : (s.skipIf c).stack = s.stack := rfl
@[simp] theorem State.skipIf_sp (c : Bool) : (s.skipIf c).sp = s.sp := rfl
@[simp] theorem State.skipIf_dt (c : Bool) : (s.skipIf c).dt = s.dt := rfl
@[simp] theorem State.skipIf_st (c : Bool) : (s.skipIf c).st = s.st := rfl
@[simp] theorem State.skipIf_keys (c : Bool) : (s.skipIf c).keys = s.keys := rfl
@[simp] theorem State.skipIf_prevKeys (c : Bool) : (s.skipIf c).prevKeys = s.prevKeys := rfl
@[simp] theorem State.skipIf_mode (c : Bool) : (s.skipIf c).mode = s.mode := rfl
@[simp] theorem State.skipIf_subtick (c : Bool) : (s.skipIf c).subtick = s.subtick := rfl
@[simp] theorem State.skipIf_status (c : Bool) : (s.skipIf c).status = s.status := rfl
@[simp] theorem State.skipIf_events (c : Bool) : (s.skipIf c).events = s.events := rfl
@[simp] theorem State.skipIf_inputs (c : Bool) : (s.skipIf c).inputs = s.inputs := rfl
@[simp] theorem State.skipIf_iteration (c : Bool) : (s.skipIf c).iteration = s.iteration := rfl

/-! ### emit -/

@[simp] theorem State.emit_params (e : Event) : (s.emit e).params = s.params := rfl
@[simp] theorem State.emit_mem (e : Event) : (s.emit e).mem = s.mem := rfl
@[simp] theorem State.emit_v (e : Event) : (s.emit e).v = s.v := rfl
@[simp] theorem State.emit_vWritten (e : Event) : (s.emit e).vWritten = s.vWritten := rfl
@[simp] theorem State.emit_i (e : Event) : (s.emit e).i = s.i := rfl
@[simp] theorem State.emit_iWritten (e : Event) : (s.emit e).iWritten = s.iWritten := rfl
@[simp] theorem State.emit_pc (e : Event) : (s.emit e).pc = s.pc := rfl
@[simp] theorem State.emit_stack (e : Event) : (s.emit e).stack = s.stack := rfl
@[simp] theorem State.emit_sp (e : Event) : (s.emit e).sp = s.sp := rfl
@[simp] theorem State.emit_dt (e : Event) : (s.emit e).dt = s.dt := rfl
@[simp] theorem State.emit_st (e : Event) : (s.emit e).st = s.st := rfl
@[simp] theorem State.emit_keys (e : Event) : (s.emit e).keys = s.keys := rfl
@[simp] theorem State.emit_prevKeys (e : Event) : (s.emit e).prevKeys = s.prevKeys := rfl
@[simp] theorem State.emit_mode (e : Event) : (s.emit e).mode = s.mode := rfl
@[simp] theorem State.emit_subtick (e : Event) : (s.emit e).subtick = s.subtick := rfl
@[simp] theorem State.emit_status (e : Event) : (s.emit e).status = s.status := rfl
@[simp] theorem State.emit_events (e : Event) : (s.emit e).events = s.events ++ [e] := rfl
@[simp] theorem State.emit_inputs (e : Event) : (s.emit e).inputs = s.inputs := rfl
@[simp] theorem State.emit_iteration (e : Event) : (s.emit e).iteration = s.iteration := rfl

/-! ### setV -/

@[simp] theorem State.setV_params (r : Reg) (b : Byte) : (s.setV r b).params = s.params := rfl
@[simp] theorem State.setV_mem (r : Reg) (b : Byte) : (s.setV r b).mem = s.mem := rfl
@[simp] theorem State.setV_v (r : Reg) (b : Byte) : (s.setV r b).v = s.v.set r.toNat b r.isLt := rfl
@[simp] theorem State.setV_vWritten (r : Reg) (b : Byte) : (s.setV r b).vWritten = s.vWritten.set r.toNat true r.isLt := rfl
@[simp] theorem State.setV_i (r : Reg) (b : Byte) : (s.setV r b).i = s.i := rfl
@[simp] theorem State.setV_iWritten (r : Reg) (b : Byte) : (s.setV r b).iWritten = s.iWritten := rfl
@[simp] theorem State.setV_pc (r : Reg) (b : Byte) : (s.setV r b).pc = s.pc := rfl
@[simp] theorem State.setV_stack (r : Reg) (b : Byte) : (s.setV r b).stack = s.stack := rfl
@[simp] theorem State.setV_sp (r : Reg) (b : Byte) : (s.setV r b).sp = s.sp := rfl
@[simp] theorem State.setV_dt (r : Reg) (b : Byte) : (s.setV r b).dt = s.dt := rfl
@[simp] theorem State.setV_st (r : Reg) (b : Byte) : (s.setV r b).st = s.st := rfl
@[simp] theorem State.setV_keys (r : Reg) (b : Byte) : (s.setV r b).keys = s.keys := rfl
@[simp] theorem State.setV_prevKeys (r : Reg) (b : Byte) : (s.setV r b).prevKeys = s.prevKeys := rfl
@[simp] theorem State.setV_mode (r : Reg) (b : Byte) : (s.setV r b).mode = s.mode := rfl
@[simp] theorem State.setV_subtick (r : Reg) (b : Byte) : (s.setV r b).subtick = s.subtick := rfl
@[simp] theorem State.setV_status (r : Reg) (b : Byte) : (s.setV r b).status = s.status := rfl
@[simp] theorem State.setV_events (r : Reg) (b : Byte) : (s.setV r b).events = s.events := rfl
@[simp] theorem State.setV_inputs (r : Reg) (b : Byte) : (s.setV r b).inputs = s.inputs := rfl
@[simp] theorem State.setV_iteration (r : Reg) (b : Byte) : (s.setV r b).iteration = s.iteration := rfl

/-! ### writeByte -/

@[simp] theorem State.writeByte_params (a : Nat) (b : Byte) : (s.writeByte a b).params = s.params := rfl
@[simp] theorem State.writeByte_mem (a : Nat) (b : Byte) : (s.writeByte a b).mem = Memory.write (resetByte s.params.glyphRom) s.mem a b := rfl
@[simp] theorem State.writeByte_v (a : Nat) (b : Byte) : (s.writeByte a b).v = s.v := rfl
@[simp] theorem State.writeByte_vWritten (a : Nat) (b : Byte) : (s.writeByte a b).vWritten = s.vWritten := rfl
@[simp] theorem State.writeByte_i (a : Nat) (b : Byte) : (s.writeByte a b).i = s.i := rfl
@[simp] theorem State.writeByte_iWritten (a : Nat) (b : Byte) : (s.writeByte a b).iWritten = s.iWritten := rfl
@[simp] theorem State.writeByte_pc (a : Nat) (b : Byte) : (s.writeByte a b).pc = s.pc := rfl
@[simp] theorem State.writeByte_stack (a : Nat) (b : Byte) : (s.writeByte a b).stack = s.stack := rfl
@[simp] theorem State.writeByte_sp (a : Nat) (b : Byte) : (s.writeByte a b).sp = s.sp := rfl
@[simp] theorem State.writeByte_dt (a : Nat) (b : Byte) : (s.writeByte a b).dt = s.dt := rfl
@[simp] theorem State.writeByte_st (a : Nat) (b : Byte) : (s.writeByte a b).st = s.st := rfl
@[simp] theorem State.writeByte_keys (a : Nat) (b : Byte) : (s.writeByte a b).keys = s.keys := rfl
@[simp] theorem State.writeByte_prevKeys (a : Nat) (b : Byte) : (s.writeByte a b).prevKeys = s.prevKeys := rfl
@[simp] theorem State.writeByte_mode (a : Nat) (b : Byte) : (s.writeByte a b).mode = s.mode := rfl
@[simp] theorem State.writeByte_subtick (a : Nat) (b : Byte) : (s.writeByte a b).subtick = s.subtick := rfl
@[simp] theorem State.writeByte_status (a : Nat) (b : Byte) : (s.writeByte a b).status = s.status := rfl
@[simp] theorem State.writeByte_events (a : Nat) (b : Byte) : (s.writeByte a b).events = s.events := rfl
@[simp] theorem State.writeByte_inputs (a : Nat) (b : Byte) : (s.writeByte a b).inputs = s.inputs := rfl
@[simp] theorem State.writeByte_iteration (a : Nat) (b : Byte) : (s.writeByte a b).iteration = s.iteration := rfl

/-! ### poll -/

@[simp] theorem State.poll_params : (s.poll).params = s.params := rfl
@[simp] theorem State.poll_mem : (s.poll).mem = s.mem := rfl
@[simp] theorem State.poll_v : (s.poll).v = s.v := rfl
@[simp] theorem State.poll_vWritten : (s.poll).vWritten = s.vWritten := rfl
@[simp] theorem State.poll_i : (s.poll).i = s.i := rfl
@[simp] theorem State.poll_iWritten : (s.poll).iWritten = s.iWritten := rfl
@[simp] theorem State.poll_pc : (s.poll).pc = s.pc := rfl
@[simp] theorem State.poll_stack : (s.poll).stack = s.stack := rfl
@[simp] theorem State.poll_sp : (s.poll).sp = s.sp := rfl
@[simp] theorem State.poll_dt : (s.poll).dt = s.dt := rfl
@[simp] theorem State.poll_st : (s.poll).st = s.st := rfl
@[simp] theorem State.poll_keys : (s.poll).keys = s.input.keys := rfl
@[simp] theorem State.poll_prevKeys : (s.poll).prevKeys = s.input.keys := rfl
@[simp] theorem State.poll_mode : (s.poll).mode = s.mode := rfl
@[simp] theorem State.poll_subtick : (s.poll).subtick = s.subtick := rfl
@[simp] theorem State.poll_status : (s.poll).status = s.status := rfl
@[simp] theorem State.poll_events : (s.poll).events = s.events := rfl
@[simp] theorem State.poll_inputs : (s.poll).inputs = s.inputs := rfl
@[simp] theorem State.poll_iteration : (s.poll).iteration = s.iteration := rfl

/-! ### setSubtick -/

@[simp] theorem State.setSubtick_params (n : Nat) : (s.setSubtick n).params = s.params := rfl
@[simp] theorem State.setSubtick_mem (n : Nat) : (s.setSubtick n).mem = s.mem := rfl
@[simp] theorem State.setSubtick_v (n : Nat) : (s.setSubtick n).v = s.v := rfl
@[simp] theorem State.setSubtick_vWritten (n : Nat) : (s.setSubtick n).vWritten = s.vWritten := rfl
@[simp] theorem State.setSubtick_i (n : Nat) : (s.setSubtick n).i = s.i := rfl
@[simp] theorem State.setSubtick_iWritten (n : Nat) : (s.setSubtick n).iWritten = s.iWritten := rfl
@[simp] theorem State.setSubtick_pc (n : Nat) : (s.setSubtick n).pc = s.pc := rfl
@[simp] theorem State.setSubtick_stack (n : Nat) : (s.setSubtick n).stack = s.stack := rfl
@[simp] theorem State.setSubtick_sp (n : Nat) : (s.setSubtick n).sp = s.sp := rfl
@[simp] theorem State.setSubtick_dt (n : Nat) : (s.setSubtick n).dt = s.dt := rfl
@[simp] theorem State.setSubtick_st (n : Nat) : (s.setSubtick n).st = s.st := rfl
@[simp] theorem State.setSubtick_keys (n : Nat) : (s.setSubtick n).keys = s.keys := rfl
@[simp] theorem State.setSubtick_prevKeys (n : Nat) : (s.setSubtick n).prevKeys = s.prevKeys := rfl
@[simp] theorem State.setSubtick_mode (n : Nat) : (s.setSubtick n).mode = s.mode := rfl
@[simp] theorem State.setSubtick_subtick (n : Nat) : (s.setSubtick n).subtick = n := rfl
@[simp] theorem State.setSubtick_status (n : Nat) : (s.setSubtick n).status = s.status := rfl
@[simp] theorem State.setSubtick_events (n : Nat) : (s.setSubtick n).events = s.events := rfl
@[simp] theorem State.setSubtick_inputs (n : Nat) : (s.setSubtick n).inputs = s.inputs := rfl
@[simp] theorem State.setSubtick_iteration (n : Nat) : (s.setSubtick n).iteration = s.iteration := rfl

/-! ### nextInput -/

@[simp] theorem State.nextInput_params : (s.nextInput).params = s.params := rfl
@[simp] theorem State.nextInput_mem : (s.nextInput).mem = s.mem := rfl
@[simp] theorem State.nextInput_v : (s.nextInput).v = s.v := rfl
@[simp] theorem State.nextInput_vWritten : (s.nextInput).vWritten = s.vWritten := rfl
@[simp] theorem State.nextInput_i : (s.nextInput).i = s.i := rfl
@[simp] theorem State.nextInput_iWritten : (s.nextInput).iWritten = s.iWritten := rfl
@[simp] theorem State.nextInput_pc : (s.nextInput).pc = s.pc := rfl
@[simp] theorem State.nextInput_stack : (s.nextInput).stack = s.stack := rfl
@[simp] theorem State.nextInput_sp : (s.nextInput).sp = s.sp := rfl
@[simp] theorem State.nextInput_dt : (s.nextInput).dt = s.dt := rfl
@[simp] theorem State.nextInput_st : (s.nextInput).st = s.st := rfl
@[simp] theorem State.nextInput_keys : (s.nextInput).keys = s.keys := rfl
@[simp] theorem State.nextInput_prevKeys : (s.nextInput).prevKeys = s.prevKeys := rfl
@[simp] theorem State.nextInput_mode : (s.nextInput).mode = s.mode := rfl
@[simp] theorem State.nextInput_subtick : (s.nextInput).subtick = s.subtick := rfl
@[simp] theorem State.nextInput_status : (s.nextInput).status = s.status := rfl
@[simp] theorem State.nextInput_events : (s.nextInput).events = s.events := rfl
@[simp] theorem State.nextInput_inputs : (s.nextInput).inputs = s.inputs.tail := rfl
@[simp] theorem State.nextInput_iteration : (s.nextInput).iteration = s.iteration + 1 := rfl

/-! ### Accessors over updates -/

@[simp] theorem State.setStatus_getV (x : Status) (q : Reg) : (s.setStatus x).getV q = s.getV q := rfl
@[simp] theorem State.setStatus_vReadable (x : Status) (q : Reg) : (s.setStatus x).vReadable q = s.vReadable q := rfl
@[simp] theorem State.setStatus_iReadable (x : Status) : (s.setStatus x).iReadable = s.iReadable := rfl
@[simp] theorem State.setStatus_readByte (x : Status) (k : Nat) : (s.setStatus x).readByte k = s.readByte k := rfl
@[simp] theorem State.setStatus_input (x : Status) : (s.setStatus x).input = s.input := rfl
@[simp] theorem State.setI_getV (w : Word) (q : Reg) : (s.setI w).getV q = s.getV q := rfl
@[simp] theorem State.setI_vReadable (w : Word) (q : Reg) : (s.setI w).vReadable q = s.vReadable q := rfl
@[simp] theorem State.setI_readByte (w : Word) (k : Nat) : (s.setI w).readByte k = s.readByte k := rfl
@[simp] theorem State.setI_input (w : Word) : (s.setI w).input = s.input := rfl
@[simp] theorem State.setDt_getV (b : Byte) (q : Reg) : (s.setDt b).getV q = s.getV q := rfl
@[simp] theorem State.setDt_vReadable (b : Byte) (q : Reg) : (s.setDt b).vReadable q = s.vReadable q := rfl
@[simp] theorem State.setDt_iReadable (b : Byte) : (s.setDt b).iReadable = s.iReadable := rfl
@[simp] theorem State.setDt_readByte (b : Byte) (k : Nat) : (s.setDt b).readByte k = s.readByte k := rfl
@[simp] theorem State.setDt_input (b : Byte) : (s.setDt b).input = s.input := rfl
@[simp] theorem State.setSt_getV (b : Byte) (q : Reg) : (s.setSt b).getV q = s.getV q := rfl
@[simp] theorem State.setSt_vReadable (b : Byte) (q : Reg) : (s.setSt b).vReadable q = s.vReadable q := rfl
@[simp] theorem State.setSt_iReadable (b : Byte) : (s.setSt b).iReadable = s.iReadable := rfl
@[simp] theorem State.setSt_readByte (b : Byte) (k : Nat) : (s.setSt b).readByte k = s.readByte k := rfl
@[simp] theorem State.setSt_input (b : Byte) : (s.setSt b).input = s.input := rfl
@[simp] theorem State.setMode_getV (m : Mode) (q : Reg) : (s.setMode m).getV q = s.getV q := rfl
@[simp] theorem State.setMode_vReadable (m : Mode) (q : Reg) : (s.setMode m).vReadable q = s.vReadable q := rfl
@[simp] theorem State.setMode_iReadable (m : Mode) : (s.setMode m).iReadable = s.iReadable := rfl
@[simp] theorem State.setMode_readByte (m : Mode) (k : Nat) : (s.setMode m).readByte k = s.readByte k := rfl
@[simp] theorem State.setMode_input (m : Mode) : (s.setMode m).input = s.input := rfl
@[simp] theorem State.jump_getV (a : Word) (q : Reg) : (s.jump a).getV q = s.getV q := rfl
@[simp] theorem State.jump_vReadable (a : Word) (q : Reg) : (s.jump a).vReadable q = s.vReadable q := rfl
@[simp] theorem State.jump_iReadable (a : Word) : (s.jump a).iReadable = s.iReadable := rfl
@[simp] theorem State.jump_readByte (a : Word) (k : Nat) : (s.jump a).readByte k = s.readByte k := rfl
@[simp] theorem State.jump_input (a : Word) : (s.jump a).input = s.input := rfl
@[simp] theorem State.advance_getV (q : Reg) : (s.advance).getV q = s.getV q := rfl
@[simp] theorem State.advance_vReadable (q : Reg) : (s.advance).vReadable q = s.vReadable q := rfl
@[simp] theorem State.advance_iReadable : (s.advance).iReadable = s.iReadable := rfl
@[simp] theorem State.advance_readByte (k : Nat) : (s.advance).readByte k = s.readByte k := rfl
@[simp] theorem State.advance_input : (s.advance).input = s.input := rfl
@[simp] theorem State.skipIf_getV (c : Bool) (q : Reg) : (s.skipIf c).getV q = s.getV q := rfl
@[simp] theorem State.skipIf_vReadable (c : Bool) (q : Reg) : (s.skipIf c).vReadable q = s.vReadable q := rfl
@[simp] theorem State.skipIf_iReadable (c : Bool) : (s.skipIf c).iReadable = s.iReadable := rfl
@[simp] theorem State.skipIf_readByte (c : Bool) (k : Nat) : (s.skipIf c).readByte k = s.readByte k := rfl
@[simp] theorem State.skipIf_input (c : Bool) : (s.skipIf c).input = s.input := rfl
@[simp] theorem State.emit_getV (e : Event) (q : Reg) : (s.emit e).getV q = s.getV q := rfl
@[simp] theorem State.emit_vReadable (e : Event) (q : Reg) : (s.emit e).vReadable q = s.vReadable q := rfl
@[simp] theorem State.emit_iReadable (e : Event) : (s.emit e).iReadable = s.iReadable := rfl
@[simp] theorem State.emit_readByte (e : Event) (k : Nat) : (s.emit e).readByte k = s.readByte k := rfl
@[simp] theorem State.emit_input (e : Event) : (s.emit e).input = s.input := rfl
@[simp] theorem State.setV_iReadable (r : Reg) (b : Byte) : (s.setV r b).iReadable = s.iReadable := rfl
@[simp] theorem State.setV_readByte (r : Reg) (b : Byte) (k : Nat) : (s.setV r b).readByte k = s.readByte k := rfl
@[simp] theorem State.setV_input (r : Reg) (b : Byte) : (s.setV r b).input = s.input := rfl
@[simp] theorem State.writeByte_getV (a : Nat) (b : Byte) (q : Reg) : (s.writeByte a b).getV q = s.getV q := rfl
@[simp] theorem State.writeByte_vReadable (a : Nat) (b : Byte) (q : Reg) : (s.writeByte a b).vReadable q = s.vReadable q := rfl
@[simp] theorem State.writeByte_iReadable (a : Nat) (b : Byte) : (s.writeByte a b).iReadable = s.iReadable := rfl
@[simp] theorem State.writeByte_input (a : Nat) (b : Byte) : (s.writeByte a b).input = s.input := rfl
@[simp] theorem State.poll_getV (q : Reg) : (s.poll).getV q = s.getV q := rfl
@[simp] theorem State.poll_vReadable (q : Reg) : (s.poll).vReadable q = s.vReadable q := rfl
@[simp] theorem State.poll_iReadable : (s.poll).iReadable = s.iReadable := rfl
@[simp] theorem State.poll_readByte (k : Nat) : (s.poll).readByte k = s.readByte k := rfl
@[simp] theorem State.poll_input : (s.poll).input = s.input := rfl
@[simp] theorem State.setSubtick_getV (n : Nat) (q : Reg) : (s.setSubtick n).getV q = s.getV q := rfl
@[simp] theorem State.setSubtick_vReadable (n : Nat) (q : Reg) : (s.setSubtick n).vReadable q = s.vReadable q := rfl
@[simp] theorem State.setSubtick_iReadable (n : Nat) : (s.setSubtick n).iReadable = s.iReadable := rfl
@[simp] theorem State.setSubtick_readByte (n : Nat) (k : Nat) : (s.setSubtick n).readByte k = s.readByte k := rfl
@[simp] theorem State.setSubtick_input (n : Nat) : (s.setSubtick n).input = s.input := rfl
@[simp] theorem State.nextInput_getV (q : Reg) : (s.nextInput).getV q = s.getV q := rfl
@[simp] theorem State.nextInput_vReadable (q : Reg) : (s.nextInput).vReadable q = s.vReadable q := rfl
@[simp] theorem State.nextInput_iReadable : (s.nextInput).iReadable = s.iReadable := rfl
@[simp] theorem State.nextInput_readByte (k : Nat) : (s.nextInput).readByte k = s.readByte k := rfl

/-- V[q] after V[r] <- b. -/
@[simp] theorem State.setV_getV (r q : Reg) (b : Byte) : (s.setV r b).getV q = if q = r then b else s.getV q := by
  by_cases h : q = r
  · subst h; simp [State.getV]
  · have h' : r.toNat ≠ q.toNat := fun e => h (BitVec.eq_of_toNat_eq e.symm)
    simp [State.getV, h, h']

/-- The written bit of V[q] after V[r] <- b. -/
theorem State.setV_written (r q : Reg) (b : Byte) :
    (s.setV r b).vWritten[q.toNat]'(q.isLt) = if q = r then true else s.vWritten[q.toNat]'(q.isLt) := by
  by_cases h : q = r
  · subst h; simp
  · have h' : r.toNat ≠ q.toNat := fun e => h (BitVec.eq_of_toNat_eq e.symm)
    simp [h, h']

/-- V[q] has a value after V[r] <- b exactly when it is V[r] or had one. -/
@[simp] theorem State.setV_vReadable (r q : Reg) (b : Byte) :
    (s.setV r b).vReadable q = if q = r then true else s.vReadable q := by
  simp only [State.vReadable, State.setV_params, State.setV_written]
  split <;> simp

/-- I has a value once written. -/
@[simp] theorem State.setI_iReadable (w : Word) : (s.setI w).iReadable = true := by
  simp [State.iReadable]

/-- A flag write is a write to VF. -/
theorem State.setFlag_eq (c : Bool) : s.setFlag c = s.setV regF (flagByte c) := rfl

/-- The input record of an iteration whose record stands in the state. -/
@[simp] theorem State.input_cons (r : Config.Input) (rs : List Config.Input) (h : s.inputs = r :: rs) :
    s.input = r := by
  simp [State.input, h]

/-- With no record in the state, the inputs are the free host inputs. -/
theorem State.input_nil (h : s.inputs = []) : s.input = Config.hostInput s.iteration := by
  simp [State.input, h]

end Sys2Proof.Machine
end

