-- ==== Sys2Proof/Laws/Memory.lean ====
section
/-!
SUPPORT. The laws of memory: a read after a write, the canonical form kept by every memory operation, and what a
multi-byte write and read do (spec/20_memory.md R38, R39, R43).
-/
namespace Sys2Proof.Machine

/-! ## One byte -/

variable (d : Nat → Byte)

/-- Below the first listed address every address is unlisted. -/
theorem Memory.read_below (m : Memory) (a : Nat) (h : ∀ c ∈ m, a < c.1) : Memory.read d m a = d a := by
  cases m with
  | nil => rfl
  | cons c m => simp [Memory.read, h c (by simp)]

/-- A write leaves every other address as it was. -/
theorem Memory.read_write_ne (m : Memory) (a k : Nat) (b : Byte) (hm : m.Pairwise (fun p q => p.1 < q.1))
    (h : k ≠ a) : Memory.read d (Memory.write d m a b) k = Memory.read d m k := by
  induction m with
  | nil =>
    simp only [Memory.write]
    split
    · rfl
    · simp [Memory.read, h]
  | cons c m ih =>
    obtain ⟨hc, hm⟩ := List.pairwise_cons.mp hm
    simp only [Memory.write]
    split
    · split
      · rfl
      · rename_i h1 _
        simp only [Memory.read, h, if_false]
        split <;> split <;> first | rfl | omega
    · split
      · rename_i h1 h2
        subst h2
        split
        · simp only [Memory.read, h, if_false]
          split
          · rename_i h3
            exact Memory.read_below d m k (fun e he => Nat.lt_trans h3 (hc e he))
          · rfl
        · simp [Memory.read, h]
      · simp [Memory.read, ih hm]

/-- A read of the address written gives the byte written. -/
theorem Memory.read_write_eq (m : Memory) (a : Nat) (b : Byte) (hm : m.Pairwise (fun p q => p.1 < q.1)) :
    Memory.read d (Memory.write d m a b) a = b := by
  induction m with
  | nil =>
    simp only [Memory.write]
    split
    · rename_i h; simp [Memory.read, h]
    · simp [Memory.read]
  | cons c m ih =>
    obtain ⟨hc, hm⟩ := List.pairwise_cons.mp hm
    simp only [Memory.write]
    split
    · rename_i h1
      split
      · rename_i h2; simp [Memory.read, h1, h2]
      · simp [Memory.read]
    · split
      · rename_i h1 h2
        subst h2
        split
        · rename_i h3
          rw [Memory.read_below d m c.1 hc, h3]
        · simp [Memory.read]
      · rename_i h1 h2
        simp [Memory.read, h1, h2, ih hm]

/-- Every address a write lists was listed, or is the one written. -/
theorem Memory.mem_write (m : Memory) (a : Nat) (b : Byte) (c : Host.Cell) (h : c ∈ Memory.write d m a b) :
    c ∈ m ∨ (c = (a, b) ∧ b ≠ d a) := by
  induction m with
  | nil =>
    simp only [Memory.write] at h
    split at h
    · simp at h
    · simp_all
  | cons e m ih =>
    simp only [Memory.write] at h
    split at h
    · split at h
      · exact .inl h
      · simp only [List.mem_cons] at h ⊢; tauto
    · split at h
      · split at h
        · exact .inl (List.mem_cons_of_mem _ h)
        · simp only [List.mem_cons] at h ⊢; tauto
      · simp only [List.mem_cons] at h ⊢
        rcases h with h | h
        · exact .inl (.inl h)
        · rcases ih h with h | h
          · exact .inl (.inr h)
          · exact .inr h

/-- A write keeps the canonical form. -/
theorem Memory.write_wf (m : Memory) (a : Nat) (b : Byte) (hm : Memory.wf d m) (ha : a < memSize) :
    Memory.wf d (Memory.write d m a b) := by
  refine ⟨?_, fun c hc => ?_⟩
  · have hp := hm.1
    clear hm
    induction m with
    | nil => simp only [Memory.write]; split <;> simp
    | cons e m ih =>
      obtain ⟨he, hm⟩ := List.pairwise_cons.mp hp
      simp only [Memory.write]
      split
      · rename_i h1
        split
        · exact hp
        · refine List.pairwise_cons.mpr ⟨fun c hc => ?_, hp⟩
          rcases List.mem_cons.mp hc with rfl | hc
          · exact h1
          · exact Nat.lt_trans h1 (he c hc)
      · split
        · rename_i h1 h2
          subst h2
          split
          · exact hm
          · exact List.pairwise_cons.mpr ⟨he, hm⟩
        · rename_i h1 h2
          refine List.pairwise_cons.mpr ⟨fun c hc => ?_, ih hm⟩
          rcases Memory.mem_write d m a b c hc with hc | ⟨rfl, _⟩
          · exact he c hc
          · show e.1 < a; omega
  · rcases Memory.mem_write d m a b c hc with hc | ⟨rfl, hb⟩
    · exact hm.2 c hc
    · exact ⟨ha, hb⟩

/-! ## The state's memory -/

variable (s : State)

theorem State.readByte_writeByte_ne (hs : s.memWf) (a k : Nat) (b : Byte) (h : k ≠ a) :
    (s.writeByte a b).readByte k = s.readByte k :=
  Memory.read_write_ne _ s.mem a k b hs.1 h

theorem State.readByte_writeByte_eq (hs : s.memWf) (a : Nat) (b : Byte) : (s.writeByte a b).readByte a = b :=
  Memory.read_write_eq _ s.mem a b hs.1

theorem State.writeByte_memWf (hs : s.memWf) (a : Nat) (b : Byte) (ha : a < memSize) : (s.writeByte a b).memWf :=
  Memory.write_wf _ s.mem a b hs ha

/-- A multi-byte write within the address space keeps the canonical form. -/
theorem State.writeBytes_memWf (bytes : List Byte) (s : State) (a : Nat) (hs : s.memWf)
    (ha : a + bytes.length ≤ memSize) : (s.writeBytes a bytes).memWf := by
  induction bytes generalizing s a with
  | nil => exact hs
  | cons b bs ih =>
    simp only [List.length_cons] at ha
    exact ih _ _ (s.writeByte_memWf hs a b (by omega)) (by omega)

/-- A multi-byte write changes memory alone. -/
theorem State.writeBytes_eq (bytes : List Byte) (s : State) (a : Nat) :
    s.writeBytes a bytes = { s with mem := (s.writeBytes a bytes).mem } := by
  induction bytes generalizing s a with
  | nil => rfl
  | cons b bs ih => exact (ih (s.writeByte a b) (a + 1)).trans rfl

/-- Outside its range a multi-byte write within the address space leaves every byte as it was. -/
theorem State.readByte_writeBytes_out (bytes : List Byte) (s : State) (a k : Nat) (hs : s.memWf)
    (ha : a + bytes.length ≤ memSize) (hk : k < a ∨ a + bytes.length ≤ k) :
    (s.writeBytes a bytes).readByte k = s.readByte k := by
  induction bytes generalizing s a with
  | nil => rfl
  | cons b bs ih =>
    simp only [List.length_cons] at ha hk
    exact (ih (s.writeByte a b) (a + 1) (s.writeByte_memWf hs a b (by omega)) (by omega) (by omega)).trans
      (s.readByte_writeByte_ne hs a k b (by omega))

/-- Within its range a multi-byte write leaves the bytes of the list, low address first. -/
theorem State.readByte_writeBytes_in (bytes : List Byte) (s : State) (a j : Nat) (hs : s.memWf)
    (ha : a + bytes.length ≤ memSize) (hj : j < bytes.length) :
    (s.writeBytes a bytes).readByte (a + j) = bytes[j] := by
  induction bytes generalizing s a j with
  | nil => simp at hj
  | cons b bs ih =>
    simp only [List.length_cons] at ha hj
    have hs' := s.writeByte_memWf hs a b (by omega)
    cases j with
    | zero =>
      refine (State.readByte_writeBytes_out bs (s.writeByte a b) (a + 1) a hs' (by omega) (by omega)).trans ?_
      exact s.readByte_writeByte_eq hs a b
    | succ j =>
      have := ih (s.writeByte a b) (a + 1) j hs' (by omega) (by omega)
      simpa [State.writeBytes, Nat.add_assoc, Nat.add_comm 1 j] using this

/-- `pastEnd` is the whole bounds check: an access that passes it has its bytes below 4096, or has none. -/
theorem pastEnd_eq_false (addr : Word) (n : Nat) (h : pastEnd addr n = false) :
    n = 0 ∨ addr.toNat + n ≤ memSize := by
  simp only [pastEnd, decide_eq_false_iff_not, memSize] at *
  omega

@[simp] theorem State.readBytes_length (a n : Nat) : (s.readBytes a n).length = n := by
  simp [State.readBytes]

@[simp] theorem State.readBytes_getElem (a n j : Nat) (h : j < (s.readBytes a n).length) :
    (s.readBytes a n)[j] = s.readByte (a + j) := by
  simp [State.readBytes]

/-! ## The state after construction -/

/-- After construction memory lists nothing, so it is in canonical form. -/
theorem State.construct_memWf (p : Config.Params) : (State.construct p).memWf :=
  ⟨List.Pairwise.nil, by simp [State.construct]⟩

/-- After construction every byte holds its reset content. -/
@[simp] theorem State.construct_readByte (p : Config.Params) (a : Nat) :
    (State.construct p).readByte a = resetByte p.glyphRom a := rfl

end Sys2Proof.Machine
end

