-- ==== Sys2Proof/Laws/Ops.lean ====
section
/-!
SUPPORT. One lemma per shared operation that says once everything it can do, for the proofs to cite instead of
unfolding it: the operand reads, the memory accesses, the stack controller, the key read, and the flag writes.
-/
namespace Sys2Proof.Machine

/-- Raising a fault answers the state with its status Faulted and nothing else changed (R111). -/
theorem raise_eq (f : FaultCode) (s : State) : raise f s = .next (s.setStatus (.faulted f)) := rfl

/-! ## Operand reads -/

theorem withV_of_readable {r : Reg} {s : State} (k : Byte → Result) (h : s.vReadable r = true) :
    withV r s k = k (s.getV r) := by
  simp [withV, h]

theorem withV_of_unreadable {r : Reg} {s : State} (k : Byte → Result) (h : s.vReadable r = false) :
    withV r s k = raise (.uninitialisedRead (.v r)) s := by
  simp [withV, h]

/-- Reading V[r] either goes on with its value or raises UninitialisedRead (R29). -/
theorem withV_cases {P : Result → Prop} {r : Reg} {s : State} {k : Byte → Result}
    (ok : s.vReadable r = true → P (k (s.getV r)))
    (bad : s.vReadable r = false → P (raise (.uninitialisedRead (.v r)) s)) : P (withV r s k) := by
  cases h : s.vReadable r
  · rw [withV_of_unreadable k h]; exact bad h
  · rw [withV_of_readable k h]; exact ok h

theorem withI_of_readable {s : State} (k : Word → Result) (h : s.iReadable = true) : withI s k = k s.i := by
  simp [withI, h]

theorem withI_of_unreadable {s : State} (k : Word → Result) (h : s.iReadable = false) :
    withI s k = raise (.uninitialisedRead .i) s := by
  simp [withI, h]

/-- Reading I either goes on with its value or raises UninitialisedRead (R29). -/
theorem withI_cases {P : Result → Prop} {s : State} {k : Word → Result}
    (ok : s.iReadable = true → P (k s.i))
    (bad : s.iReadable = false → P (raise (.uninitialisedRead .i) s)) : P (withI s k) := by
  cases h : s.iReadable
  · rw [withI_of_unreadable k h]; exact bad h
  · rw [withI_of_readable k h]; exact ok h

theorem withVs_of_readable {rs : List Reg} {s : State} (k : List Byte → Result)
    (h : ∀ r ∈ rs, s.vReadable r = true) : withVs rs s k = k (rs.map s.getV) := by
  have : rs.find? (fun r => !s.vReadable r) = none := by simpa using h
  simp [withVs, this]

/-- Reading several registers either goes on with their values or raises UninitialisedRead for one of them that has
no value (R29). -/
theorem withVs_cases {P : Result → Prop} {rs : List Reg} {s : State} {k : List Byte → Result}
    (ok : (∀ r ∈ rs, s.vReadable r = true) → P (k (rs.map s.getV)))
    (bad : ∀ r ∈ rs, s.vReadable r = false → P (raise (.uninitialisedRead (.v r)) s)) : P (withVs rs s k) := by
  cases h : rs.find? (fun r => !s.vReadable r) with
  | none => simp only [withVs, h]; exact ok (by simpa using h)
  | some r =>
    simp only [withVs, h]
    exact bad r (List.mem_of_find?_eq_some h) (by simpa using List.find?_some h)

/-- V[r] is one of the registers V0..Vx exactly when r is at most x. -/
theorem mem_regsTo (x r : Reg) : r ∈ regsTo x ↔ r.toNat ≤ x.toNat := by
  simp only [regsTo, List.mem_map, List.mem_range]
  constructor
  · rintro ⟨k, hk, rfl⟩
    have := x.isLt
    simp only [BitVec.toNat_ofNat]
    omega
  · intro h
    exact ⟨r.toNat, by omega, by simp⟩

@[simp] theorem regsTo_length (x : Reg) : (regsTo x).length = x.toNat + 1 := by simp [regsTo]

@[simp] theorem regsTo_getElem (x : Reg) (j : Nat) (h : j < (regsTo x).length) :
    (regsTo x)[j] = BitVec.ofNat 4 j := by simp [regsTo]

@[simp] theorem decimalDigits_length (b : Byte) : (decimalDigits b).length = 3 := rfl

/-! ## Memory accesses -/

/-- MemRead either goes on with the bytes or raises MemoryOutOfRange (R38). -/
theorem memRead_cases {P : Result → Prop} {a : Word} {n : Nat} {s : State} {k : List Byte → Result}
    (ok : pastEnd a n = false → P (k (s.readBytes a.toNat n)))
    (bad : pastEnd a n = true → P (raise (.memoryOutOfRange a n) s)) : P (memRead a n s k) := by
  cases h : pastEnd a n
  · simp only [memRead, h]; exact ok h
  · simp only [memRead, h]; exact bad h

/-- MemWrite either goes on after the whole write or raises MemoryOutOfRange with nothing written (R39). -/
theorem memWrite_cases {P : Result → Prop} {a : Word} {bytes : List Byte} {s : State} {k : State → Result}
    (ok : pastEnd a bytes.length = false → P (k (s.writeBytes a.toNat bytes)))
    (bad : pastEnd a bytes.length = true → P (raise (.memoryOutOfRange a bytes.length) s)) :
    P (memWrite a bytes s k) := by
  cases h : pastEnd a bytes.length
  · simp only [memWrite, h]; exact ok h
  · simp only [memWrite, h]; exact bad h

/-! ## The call-stack controller -/

/-- Push either goes on with the value on top and one more entry in use, or raises StackOverflow (R57). -/
theorem push_cases {P : Result → Prop} {w : Word} {s : State} {k : State → Result}
    (ok : ∀ h : s.sp.val < 16,
      P (k { s with stack := s.stack.set s.sp.val w h, sp := ⟨s.sp.val + 1, by omega⟩ }))
    (bad : s.sp.val = 16 → P (raise (.stackOverflow s.pc) s)) : P (push w s k) := by
  unfold push
  split
  · rename_i h; exact ok h
  · exact bad (by have := s.sp.isLt; omega)

/-- Pop either goes on with the top entry and one entry fewer in use, or raises StackUnderflow (R57). -/
theorem pop_cases {P : Result → Prop} {s : State} {k : Word → State → Result}
    (ok : ∀ h : s.sp.val - 1 < 16, 0 < s.sp.val →
      P (k (s.stack[s.sp.val - 1]) { s with sp := ⟨s.sp.val - 1, by omega⟩ }))
    (bad : s.sp.val = 0 → P (raise (.stackUnderflow s.pc) s)) : P (pop s k) := by
  unfold pop
  split
  · rename_i h; exact bad h
  · exact ok (by have := s.sp.isLt; omega) (by omega)

/-! ## The key read -/

/-- Reading key V[x] goes on with the key's state, or raises UninitialisedRead or KeyIndexOutOfRange (R91, R113). -/
theorem withKey_cases {P : Result → Prop} {x : Reg} {s : State} {c : Bool → Result}
    (ok : s.vReadable x = true → ∀ h : (s.getV x).toNat < 16, P (c (s.keys[(s.getV x).toNat])))
    (range : s.vReadable x = true → 16 ≤ (s.getV x).toNat → P (raise (.keyIndexOutOfRange (s.getV x)) s))
    (unwritten : s.vReadable x = false → P (raise (.uninitialisedRead (.v x)) s)) : P (withKey x s c) := by
  refine withV_cases (fun hr => ?_) unwritten
  split
  · rename_i h; exact ok hr h
  · exact range hr (by omega)

/-! ## Flags and block loads -/

/-- A flag byte is 0 or 1. -/
theorem flagByte_eq (c : Bool) : flagByte c = if c then 1 else 0 := rfl

/-- `lowBit` is the bit the 8-bit AND with 1 leaves (R76). -/
theorem flagByte_lowBit (p : Byte) : flagByte (lowBit p) = p &&& 1 := by
  revert p; decide

/-- `highBit` is the bit the shift by 7 leaves (R78). -/
theorem flagByte_highBit (p : Byte) : flagByte (highBit p) = p >>> 7 &&& 1 := by
  revert p; decide

/-- SHR and SHL change V[x] and VF alone. -/
theorem shiftWrites_eq (x : Reg) (p : Byte) (out : Bool) (f : Byte → Byte) (s : State) :
    ∃ b, shiftWrites x p out f s = (s.setFlag out).setV x b := ⟨_, rfl⟩

/-- A block load changes general registers alone. -/
theorem loadRegs_eq (bytes : List Byte) (k : Nat) (s : State) :
    loadRegs k bytes s =
      { s with v := (loadRegs k bytes s).v, vWritten := (loadRegs k bytes s).vWritten } := by
  induction bytes generalizing s k with
  | nil => rfl
  | cons b bs ih => exact (ih (k + 1) (s.setV (BitVec.ofNat 4 k) b)).trans rfl

/-- A block load leaves the registers below its first and above its last as they were. -/
theorem loadRegs_out (bytes : List Byte) (k : Nat) (s : State) (r : Reg) (hk : k + bytes.length ≤ 16)
    (hr : r.toNat < k ∨ k + bytes.length ≤ r.toNat) :
    (loadRegs k bytes s).getV r = s.getV r ∧
      (loadRegs k bytes s).vWritten[r.toNat]'(r.isLt) = s.vWritten[r.toNat]'(r.isLt) := by
  induction bytes generalizing s k with
  | nil => exact ⟨rfl, rfl⟩
  | cons b bs ih =>
    simp only [List.length_cons] at hk hr
    have hne : r ≠ BitVec.ofNat 4 k := by
      rintro rfl
      simp only [BitVec.toNat_ofNat] at hr
      omega
    have h := ih (k + 1) (s.setV (BitVec.ofNat 4 k) b) (by omega) (by omega)
    rw [State.setV_getV, State.setV_written, if_neg hne, if_neg hne] at h
    exact h

/-- A block load from V[k] gives V[k + j] the j-th byte. -/
theorem loadRegs_in (bytes : List Byte) (k j : Nat) (s : State) (hk : k + bytes.length ≤ 16)
    (hj : j < bytes.length) : (loadRegs k bytes s).getV (BitVec.ofNat 4 (k + j)) = bytes[j] := by
  induction bytes generalizing s k j with
  | nil => simp at hj
  | cons b bs ih =>
    simp only [List.length_cons] at hk hj
    cases j with
    | zero =>
      have h := (loadRegs_out bs (k + 1) (s.setV (BitVec.ofNat 4 k) b) (BitVec.ofNat 4 k) (by omega)
        (.inl (by simp only [BitVec.toNat_ofNat]; omega))).1
      simpa [loadRegs] using h
    | succ j =>
      have h := ih (k + 1) j (s.setV (BitVec.ofNat 4 k) b) (by omega) (by omega)
      simpa [loadRegs, Nat.add_assoc, Nat.add_comm 1 j] using h

end Sys2Proof.Machine
end

