-- ==== Sys2Proof/Laws/Exec.lean ====
section
/-!
SUPPORT. Everything an instruction can do, said once: `exec` answers either the state with a fault raised, or the state
of the instruction's own effect. The proofs about all instructions cite this and never unfold a meaning.
-/
namespace Sys2Proof.Machine

/-- The state an instruction leaves when it raises no fault, from the state `s` it is executed at. -/
def Effect (s : State) : Instr → State → Prop
  | .cls, t => t = (s.emit .clear).advance
  | .ret, t => ∃ h : s.sp.val - 1 < 16, 0 < s.sp.val ∧
      t = { s with pc := s.stack[s.sp.val - 1], sp := ⟨s.sp.val - 1, by omega⟩ }
  | .jp nnn, t => t = s.jump (addrWord nnn)
  | .call nnn, t => ∃ h : s.sp.val < 16,
      t = { s with pc := addrWord nnn, stack := s.stack.set s.sp.val (s.pc + 2) h, sp := ⟨s.sp.val + 1, by omega⟩ }
  | .seVxKk x kk, t => t = s.skipIf (s.getV x == kk)
  | .sneVxKk x kk, t => t = s.skipIf (s.getV x != kk)
  | .seVxVy x y, t => t = s.skipIf (s.getV x == s.getV y)
  | .ldVxKk x kk, t => t = (s.setV x kk).advance
  | .addVxKk x kk, t => t = (s.setV x (s.getV x + kk)).advance
  | .ldVxVy x y, t => t = (s.setV x (s.getV y)).advance
  | .orVxVy x y, t => t = (s.setV x (s.getV x ||| s.getV y)).advance
  | .andVxVy x y, t => t = (s.setV x (s.getV x &&& s.getV y)).advance
  | .xorVxVy x y, t => t = (s.setV x (s.getV x ^^^ s.getV y)).advance
  | .addVxVy x y, t =>
      t = ((s.setV x (s.getV x + s.getV y)).setFlag (carryOf (s.getV x) (s.getV y))).advance
  | .subVxVy x y, t =>
      t = ((s.setV x (s.getV x - s.getV y)).setFlag (noBorrow (s.getV x) (s.getV y))).advance
  | .shr x _, t => t = (shiftWrites x (s.getV x) (lowBit (s.getV x)) (fun b => b >>> 1) s).advance
  | .subn x y, t =>
      t = ((s.setV x (s.getV y - s.getV x)).setFlag (noBorrow (s.getV y) (s.getV x))).advance
  | .shl x _, t => t = (shiftWrites x (s.getV x) (highBit (s.getV x)) (fun b => b <<< 1) s).advance
  | .sneVxVy x y, t => t = s.skipIf (s.getV x != s.getV y)
  | .ldINnn nnn, t => t = (s.setI (addrWord nnn)).advance
  | .jpV0 nnn, t => t = s.jump (addrWord nnn + byteWord (s.getV reg0))
  | .rnd x kk, t => t = (s.setV x (s.input.random &&& kk)).advance
  | .drw x y n, t => pastEnd s.i n.toNat = false ∧
      t = ((s.emit (.draw (s.readBytes s.i.toNat n.toNat) (s.getV x) (s.getV y))).setFlag s.input.collision).advance
  | .skp x, t => ∃ h : (s.getV x).toNat < 16, t = s.skipIf s.keys[(s.getV x).toNat]
  | .sknp x, t => ∃ h : (s.getV x).toNat < 16, t = s.skipIf (!s.keys[(s.getV x).toNat])
  | .ldVxDt x, t => t = (s.setV x s.dt).advance
  | .ldVxK x, t => t = (s.setMode (.awaitingKey x)).advance
  | .ldDtVx x, t => t = (s.setDt (s.getV x)).advance
  | .ldStVx x, t => t = (s.setSt (s.getV x)).advance
  | .addIVx x, t => t = (s.setI (s.i + byteWord (s.getV x))).advance
  | .ldFVx x, t => t = (s.setI (16 * byteWord (s.getV x))).advance
  | .ldBVx x, t => pastEnd s.i 3 = false ∧
      t = (s.writeBytes s.i.toNat (decimalDigits (s.getV x))).advance
  | .ldMemVx x, t => pastEnd s.i (x.toNat + 1) = false ∧
      t = (s.writeBytes s.i.toNat ((regsTo x).map s.getV)).advance
  | .ldVxMem x, t => pastEnd s.i (x.toNat + 1) = false ∧
      t = (loadRegs 0 (s.readBytes s.i.toNat (x.toNat + 1)) s).advance

/-- The result is the fault `f` raised at `s`, for some `f`, or the next state `t` with `Effect s i t`. -/
def Answers (i : Instr) (s : State) (o : Result) : Prop :=
  (∃ f, o = raise f s) ∨ ∃ t, o = .next t ∧ Effect s i t

theorem answers_raise (i : Instr) (s : State) (f : FaultCode) : Answers i s (raise f s) := .inl ⟨f, rfl⟩

theorem answers_next {i : Instr} {s t : State} (h : Effect s i t) : Answers i s (.next t) := .inr ⟨t, rfl, h⟩

/-- Reading one register first keeps the shape. -/
theorem answers_withV {i : Instr} {s : State} {r : Reg} {k : Byte → Result} (h : Answers i s (k (s.getV r))) :
    Answers i s (withV r s k) :=
  withV_cases (P := Answers i s) (fun _ => h) (fun _ => answers_raise i s _)

/-- Reading I first keeps the shape. -/
theorem answers_withI {i : Instr} {s : State} {k : Word → Result} (h : Answers i s (k s.i)) :
    Answers i s (withI s k) :=
  withI_cases (P := Answers i s) (fun _ => h) (fun _ => answers_raise i s _)

/-- Every instruction raises a fault or has its own effect. -/
theorem exec_answers (i : Instr) (s : State) : Answers i s (exec i s) := by
  cases i with
  | cls => exact answers_next rfl
  | ret =>
    simp only [exec, execRet]
    refine pop_cases (P := Answers .ret s) (fun h hp => ?_) (fun _ => answers_raise _ s _)
    exact answers_next (i := .ret) ⟨h, hp, rfl⟩
  | jp nnn => exact answers_next rfl
  | call nnn =>
    simp only [exec, execCall]
    refine push_cases (P := Answers (.call nnn) s) (fun h => ?_) (fun _ => answers_raise _ s _)
    exact answers_next (i := .call nnn) ⟨h, rfl⟩
  | seVxKk x kk =>
    simp only [exec, execSeVxKk]
    refine answers_withV ?_
    exact answers_next rfl
  | sneVxKk x kk =>
    simp only [exec, execSneVxKk]
    refine answers_withV ?_
    exact answers_next rfl
  | seVxVy x y =>
    simp only [exec, execSeVxVy]
    refine answers_withV ?_
    refine answers_withV ?_
    exact answers_next rfl
  | ldVxKk x kk => exact answers_next rfl
  | addVxKk x kk =>
    simp only [exec, execAddVxKk]
    refine answers_withV ?_
    exact answers_next rfl
  | ldVxVy x y =>
    simp only [exec, execLdVxVy]
    refine answers_withV ?_
    exact answers_next rfl
  | orVxVy x y =>
    simp only [exec, execOrVxVy]
    refine answers_withV ?_
    refine answers_withV ?_
    exact answers_next rfl
  | andVxVy x y =>
    simp only [exec, execAndVxVy]
    refine answers_withV ?_
    refine answers_withV ?_
    exact answers_next rfl
  | xorVxVy x y =>
    simp only [exec, execXorVxVy]
    refine answers_withV ?_
    refine answers_withV ?_
    exact answers_next rfl
  | addVxVy x y =>
    simp only [exec, execAddVxVy]
    refine answers_withV ?_
    refine answers_withV ?_
    exact answers_next rfl
  | subVxVy x y =>
    simp only [exec, execSubVxVy]
    refine answers_withV ?_
    refine answers_withV ?_
    exact answers_next rfl
  | shr x y =>
    simp only [exec, execShr]
    refine answers_withV ?_
    exact answers_next rfl
  | subn x y =>
    simp only [exec, execSubn]
    refine answers_withV ?_
    refine answers_withV ?_
    exact answers_next rfl
  | shl x y =>
    simp only [exec, execShl]
    refine answers_withV ?_
    exact answers_next rfl
  | sneVxVy x y =>
    simp only [exec, execSneVxVy]
    refine answers_withV ?_
    refine answers_withV ?_
    exact answers_next rfl
  | ldINnn nnn => exact answers_next rfl
  | jpV0 nnn =>
    simp only [exec, execJpV0]
    refine answers_withV ?_
    exact answers_next rfl
  | rnd x kk => exact answers_next rfl
  | drw x y n =>
    simp only [exec, execDrw]
    refine answers_withV ?_
    refine answers_withV ?_
    refine answers_withI ?_
    refine memRead_cases (P := Answers (.drw x y n) s) (fun h => ?_) (fun _ => answers_raise _ s _)
    exact answers_next (i := .drw x y n) ⟨h, rfl⟩
  | skp x =>
    simp only [exec, execSkp]
    refine withKey_cases (P := Answers (.skp x) s) (fun _ h => ?_) (fun _ _ => answers_raise _ s _)
      (fun _ => answers_raise _ s _)
    exact answers_next (i := .skp x) ⟨h, rfl⟩
  | sknp x =>
    simp only [exec, execSknp]
    refine withKey_cases (P := Answers (.sknp x) s) (fun _ h => ?_) (fun _ _ => answers_raise _ s _)
      (fun _ => answers_raise _ s _)
    exact answers_next (i := .sknp x) ⟨h, rfl⟩
  | ldVxDt x => exact answers_next rfl
  | ldVxK x => exact answers_next rfl
  | ldDtVx x =>
    simp only [exec, execLdDtVx]
    refine answers_withV ?_
    exact answers_next rfl
  | ldStVx x =>
    simp only [exec, execLdStVx]
    refine answers_withV ?_
    exact answers_next rfl
  | addIVx x =>
    simp only [exec, execAddIVx]
    refine answers_withI ?_
    refine answers_withV ?_
    exact answers_next rfl
  | ldFVx x =>
    simp only [exec, execLdFVx]
    refine answers_withV ?_
    exact answers_next rfl
  | ldBVx x =>
    simp only [exec, execLdBVx]
    refine answers_withV ?_
    refine answers_withI ?_
    refine memWrite_cases (P := Answers (.ldBVx x) s) (fun h => ?_) (fun _ => answers_raise _ s _)
    exact answers_next (i := .ldBVx x) ⟨h, rfl⟩
  | ldMemVx x =>
    simp only [exec, execLdMemVx]
    refine answers_withI ?_
    refine withVs_cases (P := Answers (.ldMemVx x) s) (fun _ => ?_) (fun _ _ _ => answers_raise _ s _)
    refine memWrite_cases (P := Answers (.ldMemVx x) s) (fun h => ?_) (fun _ => answers_raise _ s _)
    exact answers_next (i := .ldMemVx x) ⟨by simpa using h, rfl⟩
  | ldVxMem x =>
    simp only [exec, execLdVxMem]
    refine answers_withI ?_
    refine memRead_cases (P := Answers (.ldVxMem x) s) (fun h => ?_) (fun _ => answers_raise _ s _)
    exact answers_next (i := .ldVxMem x) ⟨h, rfl⟩

/-- What a next state of an instruction is: the state with a fault raised, or that of the instruction's effect. -/
theorem exec_next {i : Instr} {s t : State} (h : exec i s = .next t) :
    (∃ f, t = s.setStatus (.faulted f)) ∨ Effect s i t := by
  rcases exec_answers i s with ⟨f, hf⟩ | ⟨u, hu, he⟩
  · rw [h] at hf
    cases hf
    exact .inl ⟨f, rfl⟩
  · rw [h] at hu
    cases hu
    exact .inr he

/-! ## What follows for every instruction, and for one word -/

/-- The two writes of a shift leave the status. -/
@[simp] theorem shiftWrites_status (x : Reg) (p : Byte) (out : Bool) (f : Byte → Byte) (s : State) :
    (shiftWrites x p out f s).status = s.status := by
  obtain ⟨b, h⟩ := shiftWrites_eq x p out f s
  rw [h]
  rfl

/-- An instruction's own effect leaves the status. -/
theorem effect_status {i : Instr} {s t : State} (h : Effect s i t) : t.status = s.status := by
  cases i
  case ret => obtain ⟨_, _, rfl⟩ := h; rfl
  case call => obtain ⟨_, rfl⟩ := h; rfl
  case skp => obtain ⟨_, rfl⟩ := h; rfl
  case sknp => obtain ⟨_, rfl⟩ := h; rfl
  case drw => obtain ⟨_, rfl⟩ := h; rfl
  case ldBVx => obtain ⟨_, rfl⟩ := h; rw [State.writeBytes_eq]; rfl
  case ldMemVx => obtain ⟨_, rfl⟩ := h; rw [State.writeBytes_eq]; rfl
  case ldVxMem => obtain ⟨_, rfl⟩ := h; rw [loadRegs_eq]; rfl
  case shr => subst h; simp
  case shl => subst h; simp
  all_goals (subst h; rfl)

/-- What executing one word can do: raise a fault, have the effect of the instruction it decodes to, or, for an
UNRECOGNISED word, report it and advance (R52, R104). -/
theorem executeWord_next {w : Word} {s u : State} (h : executeWord w s = .next u) :
    (∃ f, u = s.setStatus (.faulted f)) ∨ (∃ i, decode w = .ok i ∧ Effect s i u) ∨
      ((∃ e, decode w = .error e) ∧ u = (s.emit (.diagnostic s.pc w)).advance) := by
  unfold executeWord at h
  split at h
  · rename_i i hd
    rcases exec_next h with h | h
    · exact .inl h
    · exact .inr (.inl ⟨i, hd, h⟩)
  · rename_i e he
    cases h
    exact .inr (.inr ⟨⟨e, he⟩, rfl⟩)

end Sys2Proof.Machine
end

