-- ==== Sys2Proof/Laws/Loop.lean ====
section
/-!
SUPPORT. The run loop: what the tick accounting changes, and, once for all proofs, everything a step can do
(spec/60_exceptions.md R100).
-/
namespace Sys2Proof.Machine

variable (s : State)

/-! ## The peripheral tick -/

/-- The tick changes DT, ST and the event list alone (R107). -/
theorem tick_eq : tick s = { s with dt := (tick s).dt, st := (tick s).st, events := (tick s).events } := by
  unfold tick tickSound tickDelay
  split <;> split <;> rfl

/-- The tick accounting changes the sub-tick counter, DT, ST and the event list alone (R106, R107). -/
theorem accountTick_eq : accountTick s =
    { s with subtick := (accountTick s).subtick, dt := (accountTick s).dt, st := (accountTick s).st
             events := (accountTick s).events } := by
  by_cases h : s.subtick + 1 = s.params.tickRatio
  · have h' : accountTick s = tick (s.setSubtick 0) := if_pos h
    rw [h', tick_eq]; rfl
  · have h' : accountTick s = s.setSubtick (s.subtick + 1) := if_neg h
    rw [h']; rfl

@[simp] theorem accountTick_params : (accountTick s).params = s.params := by rw [accountTick_eq]
@[simp] theorem accountTick_mem : (accountTick s).mem = s.mem := by rw [accountTick_eq]
@[simp] theorem accountTick_v : (accountTick s).v = s.v := by rw [accountTick_eq]
@[simp] theorem accountTick_vWritten : (accountTick s).vWritten = s.vWritten := by rw [accountTick_eq]
@[simp] theorem accountTick_i : (accountTick s).i = s.i := by rw [accountTick_eq]
@[simp] theorem accountTick_iWritten : (accountTick s).iWritten = s.iWritten := by rw [accountTick_eq]
@[simp] theorem accountTick_pc : (accountTick s).pc = s.pc := by rw [accountTick_eq]
@[simp] theorem accountTick_stack : (accountTick s).stack = s.stack := by rw [accountTick_eq]
@[simp] theorem accountTick_sp : (accountTick s).sp = s.sp := by rw [accountTick_eq]
@[simp] theorem accountTick_keys : (accountTick s).keys = s.keys := by rw [accountTick_eq]
@[simp] theorem accountTick_prevKeys : (accountTick s).prevKeys = s.prevKeys := by rw [accountTick_eq]
@[simp] theorem accountTick_mode : (accountTick s).mode = s.mode := by rw [accountTick_eq]
@[simp] theorem accountTick_status : (accountTick s).status = s.status := by rw [accountTick_eq]
@[simp] theorem accountTick_inputs : (accountTick s).inputs = s.inputs := by rw [accountTick_eq]
@[simp] theorem accountTick_iteration : (accountTick s).iteration = s.iteration := by rw [accountTick_eq]

@[simp] theorem tick_subtick : (tick s).subtick = s.subtick := by rw [tick_eq]

/-- The sub-tick counter after the accounting: 0 after a tick, else one more (R106). -/
theorem accountTick_subtick :
    (accountTick s).subtick = if s.subtick + 1 = s.params.tickRatio then 0 else s.subtick + 1 := by
  unfold accountTick
  split <;> simp

/-- The end of an iteration whose word raised no fault. -/
theorem finishIteration_of_live (h : s.status = .live) : finishIteration s = (accountTick s).nextInput := by
  simp [finishIteration, h]

/-- The end of an iteration whose word raised a fault: no tick accounting (R104). -/
theorem finishIteration_of_not_live (h : s.status ≠ .live) : finishIteration s = s.nextInput := by
  unfold finishIteration
  split
  · rename_i e; exact absurd e h
  · rfl

/-! ## The key wait -/

/-- A newly-pressed key is down in this poll and was not in the previous one (R23). -/
theorem newlyPressed_iff (now prev : Vector Bool 16) (k : Key) :
    newlyPressed now prev k = true ↔ keyDown now k = true ∧ keyDown prev k = false := by
  simp [newlyPressed]

/-- The 16 key indexes are all the key indexes. -/
theorem mem_allKeys (k : Key) : k ∈ allKeys := by
  revert k; decide

/-- The key that ends a wait is a newly-pressed one, and it is the host's choice when that is one (R98, R105). -/
theorem chosenKey_some {now prev : Vector Bool 16} {choice k : Key} (h : chosenKey now prev choice = some k) :
    newlyPressed now prev k = true ∧ (newlyPressed now prev choice = true → k = choice) := by
  unfold chosenKey at h
  split at h
  · rename_i hc
    cases h
    exact ⟨hc, fun _ => rfl⟩
  · rename_i hc
    exact ⟨List.find?_some h, fun e => absurd e hc⟩

/-- A wait goes on exactly when no key is newly pressed (R105). -/
theorem chosenKey_none (now prev : Vector Bool 16) (choice : Key) :
    chosenKey now prev choice = none ↔ ∀ k, newlyPressed now prev k = false := by
  unfold chosenKey
  split
  · rename_i hc
    exact ⟨fun h => (Option.some_ne_none _ h).elim, fun h => by rw [h] at hc; cases hc⟩
  · simp only [List.find?_eq_none, Bool.not_eq_true]
    exact ⟨fun h k => h k (mem_allKeys k), fun h k _ => h k⟩

/-! ## Everything a step can do -/

/-- The pc bound at 4096 and above (R103). -/
theorem runningIteration_of_out (h : 4096 ≤ s.pc.toNat) :
    runningIteration s = .next (s.setStatus (.halted (.pcOutOfRange s.pc))).nextInput := if_pos h

/-- The pc bound at 4095 (R103). -/
theorem runningIteration_of_last (h : s.pc.toNat = 4095) :
    runningIteration s = .next (s.setStatus (.faulted (.fetchOutOfRange s.pc))).nextInput := by
  unfold runningIteration
  rw [if_neg (by omega), if_pos h]

/-- Within the pc bound the word at pc is executed, and the iteration ends (R100, R104). -/
theorem runningIteration_of_fetch (h : s.pc.toNat ≤ 4094) {u : State} (hu : executeWord s.fetch s = .next u) :
    runningIteration s = .next (finishIteration u) := by
  unfold runningIteration
  rw [if_neg (by omega), if_neg (by omega), hu]

/-- The three ways a Running iteration answers a next state (R100, R103). -/
theorem runningIteration_cases {s t : State} (h : runningIteration s = .next t) :
    (4096 ≤ s.pc.toNat ∧ t = (s.setStatus (.halted (.pcOutOfRange s.pc))).nextInput) ∨
      (s.pc.toNat = 4095 ∧ t = (s.setStatus (.faulted (.fetchOutOfRange s.pc))).nextInput) ∨
        (s.pc.toNat ≤ 4094 ∧ ∃ u, executeWord s.fetch s = .next u ∧ t = finishIteration u) := by
  unfold runningIteration at h
  split at h
  · rename_i hp
    cases h
    exact .inl ⟨hp, rfl⟩
  · split at h
    · rename_i hp
      cases h
      exact .inr (.inl ⟨hp, rfl⟩)
    · refine .inr (.inr ⟨by omega, ?_⟩)
      split at h
      · rename_i u hu
        cases h
        exact ⟨u, hu, rfl⟩
      · cases h
      · cases h

/-- The five ways a step answers a next state (R100): a stop, a wait iteration, the two pc bounds, a word executed. -/
theorem step_cases {s t : State} (h : step s = .next t) :
    s.status = .live ∧
      ((s.input.stop = true ∧ t = (s.setStatus (.halted .hostStop)).nextInput) ∨
        s.input.stop = false ∧
          ((∃ r, s.mode = .awaitingKey r ∧
              t = (accountTick (serveWait r (chosenKey s.input.keys s.prevKeys s.input.keychoice) s.poll)).nextInput) ∨
            s.mode = .running ∧
              ((4096 ≤ s.pc.toNat ∧ t = (s.poll.setStatus (.halted (.pcOutOfRange s.pc))).nextInput) ∨
                (s.pc.toNat = 4095 ∧ t = (s.poll.setStatus (.faulted (.fetchOutOfRange s.pc))).nextInput) ∨
                (s.pc.toNat ≤ 4094 ∧
                  ∃ u, executeWord s.poll.fetch s.poll = .next u ∧ t = finishIteration u)))) := by
  unfold step runLoopStep at h
  split at h
  · rename_i hl
    refine ⟨hl, ?_⟩
    unfold iterate at h
    split at h
    · rename_i hs
      cases h
      exact .inl ⟨hs, rfl⟩
    · rename_i hs
      refine .inr ⟨by simpa using hs, ?_⟩
      split at h
      · rename_i r hm
        cases h
        exact .inl ⟨r, hm, rfl⟩
      · rename_i hm
        refine .inr ⟨hm, ?_⟩
        rcases runningIteration_cases h with ⟨hp, ht⟩ | ⟨hp, ht⟩ | ⟨hp, u, hu, ht⟩
        · exact .inl ⟨hp, ht⟩
        · exact .inr (.inl ⟨hp, ht⟩)
        · exact .inr (.inr ⟨hp, u, hu, ht⟩)
  · cases h
  · cases h

end Sys2Proof.Machine
end

