-- ==== Sys2Proof/Laws/PerInstr.lean ====
section
/-!
SUPPORT. The family of statements about every instruction as syntax, one lemma per constructor: its encoded word has
the fixed bits of its own row of spec/opcode_table.json.
-/
namespace Sys2Proof.Laws.EncodesItsRow

/-- The instruction is well-formed and its word matches its row's mask and match (R49, R50). -/
def Statement (i : Instr) : Prop := i.wellFormed = true ∧ matchesRow (encode i) i = true

/-- An xkk word under the family mask. -/
theorem row_xkk (i : Instr) (op : Nib) (x : Reg) (kk : Byte) (he : encode i = wordXkk op x kk)
    (hr : tableRow i = (0xF000, wordNnn op 0)) : Statement i :=
  ⟨rfl, by simp [matchesRow, he, hr, and_mask_op]⟩

/-- An xyn word under the family mask. -/
theorem row_xyn (i : Instr) (op : Nib) (x y : Reg) (n : Nib) (he : encode i = wordXyn op x y n)
    (hr : tableRow i = (0xF000, wordNnn op 0)) : Statement i :=
  ⟨rfl, by simp [matchesRow, he, hr, and_mask_op]⟩

/-- An nnn word under the family mask. -/
theorem row_nnn (i : Instr) (op : Nib) (nnn : Addr12) (he : encode i = wordNnn op nnn)
    (hr : tableRow i = (0xF000, wordNnn op 0)) : Statement i :=
  ⟨rfl, by simp [matchesRow, he, hr, and_mask_op]⟩

/-- An xy word under the family and low-nibble mask. -/
theorem row_xy (i : Instr) (op : Nib) (x y : Reg) (n : Nib) (he : encode i = wordXyn op x y n)
    (hr : tableRow i = (0xF00F, wordXyn op 0 0 n)) : Statement i :=
  ⟨rfl, by simp [matchesRow, he, hr, and_mask_op_n]⟩

/-- An x word under the family and low-byte mask. -/
theorem row_x (i : Instr) (op : Nib) (x : Reg) (kk : Byte) (he : encode i = wordXkk op x kk)
    (hr : tableRow i = (0xF0FF, wordXkk op 0 kk)) : Statement i :=
  ⟨rfl, by simp [matchesRow, he, hr, and_mask_op_kk]⟩

theorem cls : Statement .cls := ⟨rfl, rfl⟩
theorem ret : Statement .ret := ⟨rfl, rfl⟩
theorem jp (nnn : Addr12) : Statement (.jp nnn) := row_nnn _ 0x1 nnn rfl rfl
theorem call (nnn : Addr12) : Statement (.call nnn) := row_nnn _ 0x2 nnn rfl rfl
theorem seVxKk (x : Reg) (kk : Byte) : Statement (.seVxKk x kk) := row_xkk _ 0x3 x kk rfl rfl
theorem sneVxKk (x : Reg) (kk : Byte) : Statement (.sneVxKk x kk) := row_xkk _ 0x4 x kk rfl rfl
theorem seVxVy (x y : Reg) : Statement (.seVxVy x y) := row_xy _ 0x5 x y 0x0 rfl rfl
theorem ldVxKk (x : Reg) (kk : Byte) : Statement (.ldVxKk x kk) := row_xkk _ 0x6 x kk rfl rfl
theorem addVxKk (x : Reg) (kk : Byte) : Statement (.addVxKk x kk) := row_xkk _ 0x7 x kk rfl rfl
theorem ldVxVy (x y : Reg) : Statement (.ldVxVy x y) := row_xy _ 0x8 x y 0x0 rfl rfl
theorem orVxVy (x y : Reg) : Statement (.orVxVy x y) := row_xy _ 0x8 x y 0x1 rfl rfl
theorem andVxVy (x y : Reg) : Statement (.andVxVy x y) := row_xy _ 0x8 x y 0x2 rfl rfl
theorem xorVxVy (x y : Reg) : Statement (.xorVxVy x y) := row_xy _ 0x8 x y 0x3 rfl rfl
theorem addVxVy (x y : Reg) : Statement (.addVxVy x y) := row_xy _ 0x8 x y 0x4 rfl rfl
theorem subVxVy (x y : Reg) : Statement (.subVxVy x y) := row_xy _ 0x8 x y 0x5 rfl rfl
theorem shr (x y : Reg) : Statement (.shr x y) := row_xy _ 0x8 x y 0x6 rfl rfl
theorem subn (x y : Reg) : Statement (.subn x y) := row_xy _ 0x8 x y 0x7 rfl rfl
theorem shl (x y : Reg) : Statement (.shl x y) := row_xy _ 0x8 x y 0xE rfl rfl
theorem sneVxVy (x y : Reg) : Statement (.sneVxVy x y) := row_xy _ 0x9 x y 0x0 rfl rfl
theorem ldINnn (nnn : Addr12) : Statement (.ldINnn nnn) := row_nnn _ 0xA nnn rfl rfl
theorem jpV0 (nnn : Addr12) : Statement (.jpV0 nnn) := row_nnn _ 0xB nnn rfl rfl
theorem rnd (x : Reg) (kk : Byte) : Statement (.rnd x kk) := row_xkk _ 0xC x kk rfl rfl
theorem drw (x y : Reg) (n : Nib) : Statement (.drw x y n) := row_xyn _ 0xD x y n rfl rfl
theorem skp (x : Reg) : Statement (.skp x) := row_x _ 0xE x 0x9E rfl rfl
theorem sknp (x : Reg) : Statement (.sknp x) := row_x _ 0xE x 0xA1 rfl rfl
theorem ldVxDt (x : Reg) : Statement (.ldVxDt x) := row_x _ 0xF x 0x07 rfl rfl
theorem ldVxK (x : Reg) : Statement (.ldVxK x) := row_x _ 0xF x 0x0A rfl rfl
theorem ldDtVx (x : Reg) : Statement (.ldDtVx x) := row_x _ 0xF x 0x15 rfl rfl
theorem ldStVx (x : Reg) : Statement (.ldStVx x) := row_x _ 0xF x 0x18 rfl rfl
theorem addIVx (x : Reg) : Statement (.addIVx x) := row_x _ 0xF x 0x1E rfl rfl
theorem ldFVx (x : Reg) : Statement (.ldFVx x) := row_x _ 0xF x 0x29 rfl rfl
theorem ldBVx (x : Reg) : Statement (.ldBVx x) := row_x _ 0xF x 0x33 rfl rfl
theorem ldMemVx (x : Reg) : Statement (.ldMemVx x) := row_x _ 0xF x 0x55 rfl rfl
theorem ldVxMem (x : Reg) : Statement (.ldVxMem x) := row_x _ 0xF x 0x65 rfl rfl

end Sys2Proof.Laws.EncodesItsRow
end

