-- ==== Sys2Proof/Tests/Slice0.lean ====
section
/-!
SUPPORT. The model's own tests. Expected results are the worked examples and vectors of spec/95_test_vectors.md (S1 to S13
and V-...) or the examples of the rule named; the witnesses at the end show, for each statement with hypotheses, concrete
values that meet them.
-/
namespace Sys2Proof.Tests

open Sys2Proof.Machine

/-! ## Well-formedness: an ill-formed term for each check -/

/-- TICK_RATIO 0 is refused, 1 accepted (R6). -/
theorem test_tick_ratio_zero_is_ill_formed :
    Config.Params.wellFormed { Config.Params.default with tickRatio := 0 } = false ∧
      Config.Params.wellFormed { Config.Params.default with tickRatio := 1 } = true := by decide

/-- A display side of 0 is refused (R6). -/
theorem test_empty_display_is_ill_formed :
    displaySizeWellFormed 0 32 = false ∧ displaySizeWellFormed 64 0 = false ∧ displaySizeWellFormed 64 32 = true := by
  decide

/-- S7 (R35): 3584 bytes are too many, 3583 and 0 are not. -/
theorem test_image_of_3584_bytes_is_ill_formed :
    imageWellFormed (List.replicate 3584 0) = false ∧ imageWellFormed (List.replicate 3583 0) = true ∧
      imageWellFormed [] = true := by
  unfold imageWellFormed
  simp only [List.length_replicate]
  decide

/-- Every operand value of an instruction is valid (R15, R47). -/
theorem test_instructions_are_well_formed :
    (Instr.drw 0xF 0xF 0xF).wellFormed = true ∧ (Instr.jp 0xFFF).wellFormed = true := by decide

/-! ## Decoding: one word per instruction, written out bit by bit from the patterns of R49 and R54 -/

theorem test_decode_cls : decode 0b0000000011100000#16 = .ok .cls := by decide
theorem test_decode_ret : decode 0b0000000011101110#16 = .ok .ret := by decide
theorem test_decode_jp : decode 0b0001001000110100#16 = .ok (.jp 0x234) := by decide
theorem test_decode_call : decode 0b0010001100000000#16 = .ok (.call 0x300) := by decide
theorem test_decode_se_vx_kk : decode 0b0011001100010010#16 = .ok (.seVxKk 0x3 0x12) := by decide
theorem test_decode_sne_vx_kk : decode 0b0100001100010010#16 = .ok (.sneVxKk 0x3 0x12) := by decide
theorem test_decode_se_vx_vy : decode 0b0101000100100000#16 = .ok (.seVxVy 0x1 0x2) := by decide
theorem test_decode_ld_vx_kk : decode 0b0110101001000010#16 = .ok (.ldVxKk 0xA 0x42) := by decide
theorem test_decode_add_vx_kk : decode 0b0111001000000011#16 = .ok (.addVxKk 0x2 0x03) := by decide
theorem test_decode_ld_vx_vy : decode 0b1000000101010000#16 = .ok (.ldVxVy 0x1 0x5) := by decide
theorem test_decode_or : decode 0b1000000100100001#16 = .ok (.orVxVy 0x1 0x2) := by decide
theorem test_decode_and : decode 0b1000000100100010#16 = .ok (.andVxVy 0x1 0x2) := by decide
theorem test_decode_xor : decode 0b1000000100100011#16 = .ok (.xorVxVy 0x1 0x2) := by decide
theorem test_decode_add_vx_vy : decode 0b1000000000010100#16 = .ok (.addVxVy 0x0 0x1) := by decide
theorem test_decode_sub : decode 0b1000000000010101#16 = .ok (.subVxVy 0x0 0x1) := by decide
theorem test_decode_shr : decode 0b1000010001010110#16 = .ok (.shr 0x4 0x5) := by decide
theorem test_decode_subn : decode 0b1000000000010111#16 = .ok (.subn 0x0 0x1) := by decide
theorem test_decode_shl : decode 0b1000010000001110#16 = .ok (.shl 0x4 0x0) := by decide
theorem test_decode_sne_vx_vy : decode 0b1001000100100000#16 = .ok (.sneVxVy 0x1 0x2) := by decide
theorem test_decode_ld_i_nnn : decode 0b1010001011110000#16 = .ok (.ldINnn 0x2F0) := by decide
theorem test_decode_jp_v0 : decode 0b1011001100000000#16 = .ok (.jpV0 0x300) := by decide
theorem test_decode_rnd : decode 0b1100001100001111#16 = .ok (.rnd 0x3 0x0F) := by decide
theorem test_decode_drw : decode 0b1101000100100101#16 = .ok (.drw 0x1 0x2 0x5) := by decide
theorem test_decode_skp : decode 0b1110000110011110#16 = .ok (.skp 0x1) := by decide
theorem test_decode_sknp : decode 0b1110000110100001#16 = .ok (.sknp 0x1) := by decide
theorem test_decode_ld_vx_dt : decode 0b1111001100000111#16 = .ok (.ldVxDt 0x3) := by decide
theorem test_decode_ld_vx_k : decode 0b1111010000001010#16 = .ok (.ldVxK 0x4) := by decide
theorem test_decode_ld_dt_vx : decode 0b1111000000010101#16 = .ok (.ldDtVx 0x0) := by decide
theorem test_decode_ld_st_vx : decode 0b1111000000011000#16 = .ok (.ldStVx 0x0) := by decide
theorem test_decode_add_i_vx : decode 0b1111001000011110#16 = .ok (.addIVx 0x2) := by decide
theorem test_decode_ld_f_vx : decode 0b1111101000101001#16 = .ok (.ldFVx 0xA) := by decide
theorem test_decode_ld_b_vx : decode 0b1111000000110011#16 = .ok (.ldBVx 0x0) := by decide
theorem test_decode_ld_mem_vx : decode 0b1111001001010101#16 = .ok (.ldMemVx 0x2) := by decide
theorem test_decode_ld_vx_mem : decode 0b1111001001100101#16 = .ok (.ldVxMem 0x2) := by decide

/-- R51 and the decode table of 95_test_vectors.md: words next to an instruction's are UNRECOGNISED by name. -/
theorem test_decode_unrecognised :
    decode 0x0000#16 = .error (.unrecognised 0x0000) ∧ decode 0x00E1#16 = .error (.unrecognised 0x00E1) ∧
      decode 0x5121#16 = .error (.unrecognised 0x5121) ∧ decode 0x912F#16 = .error (.unrecognised 0x912F) ∧
      decode 0x8008#16 = .error (.unrecognised 0x8008) ∧ decode 0x800F#16 = .error (.unrecognised 0x800F) ∧
      decode 0xE09F#16 = .error (.unrecognised 0xE09F) ∧ decode 0xF001#16 = .error (.unrecognised 0xF001) ∧
      decode 0xFFFF#16 = .error (.unrecognised 0xFFFF) := by decide

/-- Bytes: the high byte first (R36), and one byte alone is no word. -/
theorem test_decode_bytes :
    decodeBytes [0x12, 0x34, 0x56] = .ok (.jp 0x234, [0x56]) ∧ decodeBytes [0x12] = .error .truncated ∧
      decodeTableWord 16 0x8014 = some (.addVxVy 0x0 0x1) ∧ decodeTableWord 16 0x5121 = none := by decide

/-- The field table of R48 in 95_test_vectors.md. -/
theorem test_field :
    field 0xD123 1 0 = 0x3 ∧ field 0xD123 1 3 = 0xD ∧ field 0xD123 2 1 = 0x12 ∧ field 0xD123 3 1 = 0xD12 ∧
      field 0xFFFF 2 2 = 0xFF := by decide

/-! ## Execution: one step from reset -/

/-- An iteration's inputs in which nothing happens. -/
def quiet : Config.Input :=
  { stop := false, keys := Vector.replicate 16 false, keychoice := 0, random := 0, collision := false }

/-- The state after reset with a quiet iteration to come. -/
def start : State := { State.reset with inputs := [quiet] }

/-- The keypad with one key down. -/
def pressing (k : Key) : Vector Bool 16 := (Vector.replicate 16 false).set k.toNat true k.isLt

/-- What `f` reads in the state a result answers, if it answers one. -/
def look {α : Type} (f : State → α) : Result → Option α
  | .next t => some (f t)
  | .fault _ => none
  | .refused _ => none

/-- One step of `s` with the word `w` placed at its pc. -/
def stepOf (w : Nat) (s : State) : Result := step (s.withFetchWord 16 w)

/-- The two registers named, after a result. -/
def regs (x y : Reg) : Result → Option (Byte × Byte) := look fun t => (t.getV x, t.getV y)

/-- pc after a result. -/
def pcOf : Result → Option Word := look State.pc

/-- The status after a result. -/
def statusOf : Result → Option Status := look State.status

/-- A state in a key wait for V3. -/
def waiting : State := { start with mode := .awaitingKey 3 }

/-- The parameters with the other setting of VF_SHIFT_DEST_MODE. -/
def snapshot : Config.Params := { Config.Params.default with vfShiftDestMode := .snapshot }

/-- The parameters with the other setting of RESET_ZERO_REGS. -/
def valueless : Config.Params := { Config.Params.default with resetZeroRegs := false }

/-- V-CL1. -/
theorem test_cls :
    look (fun t => (t.events, t.pc)) (stepOf 0x00E0 start) = some ([.clear], 0x202) := by
  decide

/-- V-CR1, iteration 2, and the example of R58: SP 1 with 0x206 on top. -/
theorem test_ret :
    look (fun t => (t.pc, t.sp)) (stepOf 0x00EE { start with sp := 1, stack := start.stack.set 0 0x206 }) = some (0x206, 0) := by
  decide

/-- V-ST2. -/
theorem test_ret_underflow :
    look (fun t => (t.status, t.pc, t.sp)) (stepOf 0x00EE start) =
      some (.faulted (.stackUnderflow 0x200), 0x200, 0) := by
  decide

/-- V-JP1. -/
theorem test_jp :
    pcOf (stepOf 0x1234 start) = some 0x234 := by
  decide

/-- The example of R60. -/
theorem test_call :
    look (fun t => (t.stack[0], t.sp, t.pc)) (stepOf 0x2300 start) = some (0x202, 1, 0x300) := by
  decide

/-- V-ST1, iteration 17: a CALL with 16 entries in use. -/
theorem test_call_overflow :
    look (fun t => (t.status, t.pc, t.sp)) (stepOf 0x2222 { start with sp := 16 }) =
      some (.faulted (.stackOverflow 0x200), 0x200, 16) := by
  decide

/-- V-SE1, V-SE2. -/
theorem test_se_vx_kk :
    pcOf (stepOf 0x3312 (start.setV 3 0x12)) = some 0x204 ∧
      pcOf (stepOf 0x3312 (start.setV 3 0x13)) = some 0x202 := by
  decide

/-- V-NE1, V-NE2. -/
theorem test_sne_vx_kk :
    pcOf (stepOf 0x4312 (start.setV 3 0x12)) = some 0x202 ∧
      pcOf (stepOf 0x4312 (start.setV 3 0x13)) = some 0x204 := by
  decide

/-- V-SQ1, V-SQ2. -/
theorem test_se_vx_vy :
    pcOf (stepOf 0x5120 ((start.setV 1 7).setV 2 7)) = some 0x204 ∧ pcOf (stepOf 0x5110 start) = some 0x204 := by
  decide

/-- V-LD1. -/
theorem test_ld_vx_kk :
    regs 0xA 0xF (stepOf 0x6A42 start) = some (0x42, 0) := by
  decide

/-- V-AI2: no flag. -/
theorem test_add_vx_kk :
    regs 0xA 0xF (stepOf 0x7AFF ((start.setV 0xA 1).setV 0xF 7)) = some (0x00, 0x07) := by
  decide

/-- V-LD2. -/
theorem test_ld_vx_vy :
    regs 1 5 (stepOf 0x8150 (start.setV 5 0x99)) = some (0x99, 0x99) := by
  decide

/-- V-OR1, V-OR2. -/
theorem test_or :
    regs 1 0xF (stepOf 0x8121 ((start.setV 1 0x0F).setV 2 0xF0)) = some (0xFF, 0) ∧
      regs 1 0xF (stepOf 0x8F11 ((start.setV 0xF 1).setV 1 0x80)) = some (0x80, 0x81) := by
  decide

/-- V-AN1. -/
theorem test_and :
    regs 1 0xF (stepOf 0x8122 ((start.setV 1 0x3C).setV 2 0x0F)) = some (0x0C, 0) := by
  decide

/-- V-XO1. -/
theorem test_xor :
    regs 1 0xF (stepOf 0x8123 ((start.setV 1 0x3C).setV 2 0x0F)) = some (0x33, 0) := by
  decide

/-- S1. -/
theorem test_add_vx_vy :
    regs 0 0xF (stepOf 0x8014 ((start.setV 0 0xC8).setV 1 0x64)) = some (0x2C, 1) := by
  decide

/-- V-AD5, V-AD6: VF as destination and as source. -/
theorem test_add_vx_vy_into_flag :
    regs 1 0xF (stepOf 0x8F14 ((start.setV 0xF 0xFF).setV 1 1)) = some (1, 1) ∧
      regs 0 0xF (stepOf 0x80F4 ((start.setV 0 0xFF).setV 0xF 1)) = some (0, 1) := by
  decide

/-- V-SB1, V-SB2. -/
theorem test_sub :
    regs 0 0xF (stepOf 0x8015 (start.setV 1 1)) = some (0xFF, 0) ∧
      regs 0 0xF (stepOf 0x8015 ((start.setV 0 5).setV 1 5)) = some (0, 1) := by
  decide

/-- V-SB4, V-SB5. -/
theorem test_sub_into_flag :
    regs 1 0xF (stepOf 0x8F15 ((start.setV 0xF 3).setV 1 5)) = some (5, 0) ∧
      regs 0 0xF (stepOf 0x80F5 ((start.setV 0 5).setV 0xF 1)) = some (4, 1) := by
  decide

/-- V-SR3, V-SR4: Vy is ignored. -/
theorem test_shr :
    regs 4 0xF (stepOf 0x8406 (start.setV 4 0xFF)) = some (0x7F, 1) ∧
      regs 4 0xF (stepOf 0x8456 ((start.setV 4 0x10).setV 5 0xFF)) = some (0x08, 0) := by
  decide

/-- V-SR5, V-SR6: x = F under both settings. -/
theorem test_shr_flag :
    regs 0 0xF (stepOf 0x8F06 (start.setV 0xF 3)) = some (0, 0) ∧
      regs 0 0xF (stepOf 0x8F06 { start.setV 0xF 3 with params := snapshot }) = some (0, 1) := by
  decide

/-- V-SU1, V-SU2. -/
theorem test_subn :
    regs 0 0xF (stepOf 0x8017 ((start.setV 0 3).setV 1 5)) = some (2, 1) ∧
      regs 0 0xF (stepOf 0x8017 ((start.setV 0 5).setV 1 3)) = some (0xFE, 0) := by
  decide

/-- V-SL1, V-SL3. -/
theorem test_shl :
    regs 4 0xF (stepOf 0x840E (start.setV 4 0x81)) = some (0x02, 1) ∧
      regs 4 0xF (stepOf 0x840E (start.setV 4 0x7F)) = some (0xFE, 0) := by
  decide

/-- V-SL4, V-SL5: x = F under both settings. -/
theorem test_shl_flag :
    regs 0 0xF (stepOf 0x8F0E (start.setV 0xF 0xC0)) = some (0, 0x02) ∧
      regs 0 0xF (stepOf 0x8F0E { start.setV 0xF 0xC0 with params := snapshot }) = some (0, 0x80) := by
  decide

/-- V-NR1, V-NR2. -/
theorem test_sne_vx_vy :
    pcOf (stepOf 0x9120 ((start.setV 1 4).setV 2 4)) = some 0x202 ∧
      pcOf (stepOf 0x9120 ((start.setV 1 7).setV 2 8)) = some 0x204 := by
  decide

/-- V-LI1. -/
theorem test_ld_i_nnn :
    look State.i (stepOf 0xA2F0 start) = some 0x2F0 := by
  decide

/-- V-JV1, V-JV3: the sum is exact. -/
theorem test_jp_v0 :
    pcOf (stepOf 0xB300 (start.setV 0 0x10)) = some 0x310 ∧ pcOf (stepOf 0xBFFF (start.setV 0 0xFF)) = some 0x10FE := by
  decide

/-- V-RN1. -/
theorem test_rnd :
    regs 3 0xF (stepOf 0xC30F { start with inputs := [{ quiet with random := 0xA7 }] }) = some (0x07, 0) := by
  decide

/-- V-DR2: the old VF is the x coordinate, the new one the display's answer. -/
theorem test_drw :
    look (fun t => (t.events, t.getV 0xF)) (stepOf 0xDF15 { ((start.setI 0x0A0).setV 0xF 9).setV 1 3 with
      inputs := [{ quiet with collision := true }] }) = some ([.draw [0xF0, 0x90, 0xF0, 0x90, 0x90] 9 3], 1) := by
  decide

/-- V-DR3, V-DR4, V-DR5. -/
theorem test_drw_bounds :
    look State.events (stepOf 0xD120 (start.setI 0xFFFF)) = some [.draw [] 0 0] ∧
      look (fun t => (t.status, t.events)) (stepOf 0xD125 (start.setI 0xFFC)) =
        some (.faulted (.memoryOutOfRange 0xFFC 5), []) ∧
      look State.events (stepOf 0xD125 (start.setI 0xFFB)) = some [.draw [0, 0, 0, 0, 0] 0 0] := by
  decide

/-- V-KP1, V-KP2, V-KP4. -/
theorem test_skp :
    pcOf (stepOf 0xE19E { start.setV 1 5 with inputs := [{ quiet with keys := pressing 5 }] }) = some 0x204 ∧
      pcOf (stepOf 0xE19E (start.setV 1 5)) = some 0x202 ∧
      statusOf (stepOf 0xE19E (start.setV 1 16)) = some (.faulted (.keyIndexOutOfRange 16)) := by
  decide

/-- V-KP3, V-KP5. -/
theorem test_sknp :
    pcOf (stepOf 0xE1A1 (start.setV 1 5)) = some 0x204 ∧
      statusOf (stepOf 0xE1A1 (start.setV 1 0xFF)) = some (.faulted (.keyIndexOutOfRange 0xFF)) := by
  decide

/-- V-DT1. -/
theorem test_ld_vx_dt :
    regs 3 0xF (stepOf 0xF307 (start.setDt 0x3C)) = some (0x3C, 0) := by
  decide

/-- The example of R95. -/
theorem test_ld_vx_k :
    look (fun t => (t.mode, t.pc, t.getV 4)) (stepOf 0xF40A start) = some (.awaitingKey 4, 0x202, 0) := by
  decide

/-- V-DT2. -/
theorem test_ld_dt_vx :
    look State.dt (stepOf 0xF315 (start.setV 3 9)) = some 9 := by
  decide

/-- V-SS1. -/
theorem test_ld_st_vx :
    look (fun t => (t.st, t.events)) (stepOf 0xF318 (start.setV 3 9)) = some (9, []) := by
  decide

/-- V-XI2, V-XI3. -/
theorem test_add_i_vx :
    look State.i (stepOf 0xF01E ((start.setI 0x0FFF).setV 0 1)) = some 0x1000 ∧
      look State.i (stepOf 0xF01E ((start.setI 0xFFFF).setV 0 1)) = some 0x0000 := by
  decide

/-- S13, V-LF2. -/
theorem test_ld_f_vx :
    look State.i (stepOf 0xFA29 (start.setV 0xA 0x0A)) = some 0x0A0 ∧
      look State.i (stepOf 0xF029 (start.setV 0 0xFF)) = some 0xFF0 := by
  decide

/-- S4, V-LB2. -/
theorem test_ld_b_vx :
    look (fun t => (t.readBytes 0x300 3, t.i)) (stepOf 0xF033 ((start.setI 0x300).setV 0 253)) =
        some ([2, 5, 3], 0x300) ∧
      look (fun t => t.readBytes 0xFFD 3) (stepOf 0xF033 ((start.setI 0xFFD).setV 0 0xFF)) = some [2, 5, 5] := by
  decide

/-- V-LB3. -/
theorem test_ld_b_vx_bound :
    look (fun t => (t.status, t.pc, t.readBytes 0xFFE 2)) (stepOf 0xF033 ((start.setI 0xFFE).setV 0 0xFF)) =
      some (.faulted (.memoryOutOfRange 0xFFE 3), 0x200, [0, 0]) := by
  decide

/-- V-SM1. -/
theorem test_ld_mem_vx :
    look (fun t => (t.readBytes 0x400 3, t.i)) (stepOf 0xF255 ((((start.setI 0x400).setV 0 1).setV 1 2).setV 2 3)) =
      some ([1, 2, 3], 0x400) := by
  decide

/-- V-SM4, V-SM5. -/
theorem test_ld_mem_vx_bounds :
    look (fun t => t.readByte 0xFFF) (stepOf 0xF055 ((start.setI 0xFFF).setV 0 7)) = some 7 ∧
      statusOf (stepOf 0xF055 (start.setI 0x1000)) = some (.faulted (.memoryOutOfRange 0x1000 1)) := by
  decide

/-- V-LM1. -/
theorem test_ld_vx_mem :
    look (fun t => ((regsTo 3).map t.getV, t.i))
        (stepOf 0xF265 ((start.writeBytes 0x300 [2, 5, 3, 9]).setI 0x300)) = some ([2, 5, 3, 0], 0x300) := by
  decide

/-- V-LM3. -/
theorem test_ld_vx_mem_all :
    regs 0xE 0xF (stepOf 0xFF65 ((start.writeBytes 0x30E [0x66, 0x77]).setI 0x300)) = some (0x66, 0x77) := by
  decide

/-! ## The run loop, reset, and the reference display -/

/-- V of R52: 5121 is a no-op with a Diagnostic. -/
theorem test_unrecognised :
    look (fun t => (t.events, t.pc, t.status)) (stepOf 0x5121 start) =
      some ([.diagnostic 0x200 0x5121], 0x202, .live) := by
  decide

/-- V-RL1. -/
theorem test_host_stop :
    look (fun t => (t.status, t.getV 0, t.pc, t.subtick)) (step { start.writeBytes 512 [0x60, 0x01] with
      inputs := [{ quiet with stop := true }] }) = some (.halted .hostStop, 0, 0x200, 0) := by
  decide

/-- V-RL2, V-RL3. -/
theorem test_pc_bound :
    look (fun t => (t.status, t.subtick)) (step (start.jump 0x1000)) = some (.halted (.pcOutOfRange 0x1000), 0) ∧
      look (fun t => (t.status, t.subtick)) (step (start.jump 0xFFF)) = some (.faulted (.fetchOutOfRange 0xFFF), 0) := by
  decide

/-- V-RL4, iteration 1. -/
theorem test_last_word :
    look (fun t => (t.events, t.pc)) (stepOf 0x00E0 (start.jump 0xFFE)) = some ([.clear], 0x1000) := by
  decide

/-- V-RL5, V-RL7. -/
theorem test_uninitialised :
    look (fun t => (t.status, t.pc)) (stepOf 0x8014 { start with params := valueless }) =
        some (.faulted (.uninitialisedRead (.v 0)), 0x200) ∧
      statusOf (stepOf 0xF065 { start with params := valueless }) = some (.faulted (.uninitialisedRead .i)) := by
  decide

/-- V-WK1: key 5 was down in the previous poll. -/
theorem test_held_key_does_not_end_a_wait :
    look (fun t => (t.mode, t.getV 3, t.subtick)) (step { waiting with
      prevKeys := pressing 5, inputs := [{ quiet with keys := pressing 5 }] }) = some (.awaitingKey 3, 0, 1) := by
  decide

/-- V-WK2, iteration 5: no instruction executes. -/
theorem test_key_ends_a_wait :
    look (fun t => (t.mode, t.getV 3, t.pc)) (step { waiting with
      inputs := [{ quiet with keys := pressing 5, keychoice := 5 }] }) = some (.running, 5, 0x200) := by
  decide

/-- V-WK3: keychoice decides between keys 2 and 9. -/
theorem test_two_keys :
    look (fun t => t.getV 3) (step { waiting with
      inputs := [{ quiet with keys := (pressing 9).set 2 true, keychoice := 9 }] }) = some 9 := by
  decide

/-- V-TK1, tick 1, and V-TK2: DT stays 0. -/
theorem test_tick :
    look (fun t => (t.st, t.dt, t.events, t.subtick)) (stepOf 0x1204 { start with st := 1, subtick := 7 }) =
      some (0, 0, [.play, .refresh], 0) := by
  decide

/-- P4, iteration 8: DT 5 to 4, Pause, Refresh. -/
theorem test_tick_without_sound :
    look (fun t => (t.dt, t.events)) (stepOf 0x1206 { start with dt := 5, subtick := 7 }) = some (4, [.pause, .refresh]) := by
  decide

/-- S9. -/
theorem test_glyph_a :
    start.readBytes 160 6 = [0xF0, 0x90, 0xF0, 0x90, 0x90, 0] := by
  decide

/-- S7, S12 (R35): the image stands at 512, and the first word is its first two bytes. -/
theorem test_boot :
    look (fun t => (t.pc, t.fetch)) (boot Config.Params.default [0x60, 0xFF, 0x61, 0x02]) = some (0x200, 0x60FF) := by
  decide

/-- R112: no step from Halted. -/
theorem test_halted_has_no_step :
    step { start with status := .halted .hostStop } = .fault (.runHalted .hostStop) := rfl

/-- The reference display of R90: wrap at the right edge; the same draw again clears and collides. -/
theorem test_display_wraps :
    (let d := (blankDisplay 64 32).draw [0xC0] 63 0; (d.1.pixel 63 0, d.1.pixel 0 0, d.2)) = (true, true, false) ∧
      (let d := ((blankDisplay 64 32).draw [0x80] 63 31).1.draw [0x80] 63 31; (d.1.pixel 63 31, d.2)) = (false, true) := by
  decide

/-- R90: the composed display answers a second draw of the same sprite with a collision. -/
theorem test_display_answers :
    (match stepWithDisplay ⟨(start.setI 0x0A0).withFetchWord 16 0xD125,
          ((blankDisplay 8 8).draw [0xF0, 0x90, 0xF0, 0x90, 0x90] 0 0).1⟩ with
      | .next m => some (m.block.getV 0xF, m.display.pixel 0 0)
      | _ => none) = some (1, false) := by
  decide

/-! ## Witnesses: concrete values that meet the hypotheses of each statement, at the boundaries of their ranges -/

/-- A state that `look` sees is one the result answers. -/
theorem exists_next {o : Result} {p : State → Bool} (h : look p o = some true) : ∃ t, o = .next t ∧ p t = true := by
  cases o with
  | next t => exact ⟨t, rfl, Option.some.inj h⟩
  | fault r => cases h
  | refused r => cases h

/-- A state constructed without reset values for V0..VF and I. -/
def blank : State := { State.construct valueless with inputs := [quiet] }

/-- A live state with room for memory transfers: V0 = 255, I at `a`. -/
def indexed (a : Word) : State := (start.setI a).setV 0 0xFF

theorem witness_DecodeOfEncode : (Instr.drw 0xF 0x0 0xF).wellFormed = true := rfl

theorem witness_DecodeFollowsTheOpcodeTable :
    decode 0x8FFE = .ok (.shl 0xF 0xF) ∧ matchesRow 0x8FFE (.shl 0x0 0x0) = true := by decide

theorem witness_UnrecognisedWordsAreThoseListed :
    decode 0x0000#16 = .error (.unrecognised 0x0000) ∧ decode 0x9FFF#16 = .error (.unrecognised 0x9FFF) := by decide

theorem witness_FieldIsMaskedShiftedValue : 1 ≤ 3 ∧ 3 ≤ 3 ∧ 3 ≤ 3 ∧ (field 0xD123 3 3).toNat = 0xD := by decide

/-- At the last pc that fetches: an instruction that raises no fault. -/
theorem witness_StepRunsTheDecodedInstruction :
    let s := (start.jump 4094).withFetchWord 16 0x6A42
    s.fetches ∧ decode s.fetch = .ok (.ldVxKk 0xA 0x42) ∧
      look (fun t => decide (t.status = .live)) (exec (.ldVxKk 0xA 0x42) s.poll) = some true := by decide

/-- At the last pc that fetches: an instruction that raises one. -/
theorem witness_StepRunsTheDecodedInstruction_fault :
    let s := (start.jump 4094).withFetchWord 16 0x00EE
    s.fetches ∧ decode s.fetch = .ok .ret ∧
      look (fun t => decide (t.status ≠ .live)) (exec .ret s.poll) = some true := by decide

theorem witness_StepOnUnrecognisedWordIsANoOp :
    (let s := (start.jump 4094).withFetchWord 16 0x5121
     s.fetches ∧ decode s.fetch = .error (.unrecognised s.fetch) ∧ s.fetch ≠ 0) ∧
    start.fetches ∧ decode start.fetch = .error (.unrecognised start.fetch) ∧ start.fetch = 0 := by decide

theorem witness_HostStopChangesTheStatusAlone :
    let s : State := { start with inputs := [{ quiet with stop := true }] }
    s.status = .live ∧ s.input.stop = true := by decide

/-- pc 4096, 4095 and 4094, one for each clause. -/
theorem witness_PcBoundComesBeforeTheFetch :
    start.status = .live ∧ start.mode = .running ∧ start.input.stop = false ∧ 4096 ≤ (start.jump 4096).pc.toNat ∧
      (start.jump 4095).pc.toNat = 4095 ∧ (start.jump 4094).pc.toNat ≤ 4094 ∧ (start.jump 4094).status = .live ∧
      (start.jump 4094).mode = .running ∧ (start.jump 4094).input.stop = false := by decide

theorem witness_QuiescentStatesHaveNoStep :
    (start.setStatus (.halted (.pcOutOfRange 4096))).status = .halted (.pcOutOfRange 4096) ∧
      (start.setStatus (.faulted (.stackUnderflow 0))).status = .faulted (.stackUnderflow 0) ∧
      (start.setStatus (.halted .hostStop)).status ≠ .live := by decide

/-- A wait that key 15 ends, chosen and not chosen; one in which key 5 is held, and one with no key down. -/
theorem witness_KeyWaitIteration :
    (let s : State := { waiting with
      inputs := [{ quiet with keys := pressing 15, keychoice := 15 }] }
     s.status = .live ∧ s.input.stop = false ∧ s.mode = .awaitingKey 3 ∧
      keyDown s.input.keys s.input.keychoice = true ∧ keyDown s.prevKeys s.input.keychoice = false) ∧
    (let s : State := { waiting with
      inputs := [{ quiet with keys := pressing 15 }] }
     keyDown s.input.keys 15 = true ∧ keyDown s.prevKeys 15 = false ∧ keyDown s.input.keys s.input.keychoice = false) ∧
    (let s : State := { waiting with
      prevKeys := pressing 5, inputs := [{ quiet with keys := pressing 5 }] }
     ∀ k, keyDown s.input.keys k = true → keyDown s.prevKeys k = true) ∧
    ∀ k, keyDown waiting.input.keys k = true → keyDown waiting.prevKeys k = true := by decide

/-- A wait entered for VF, and a wait left. -/
theorem witness_WaitIsEnteredAndLeftOneWay :
    start.mode = .running ∧
      look (fun t => decide (t.mode = .awaitingKey 0xF)) (stepOf 0xFF0A start) = some true ∧
    waiting.mode = .awaitingKey 3 ∧
      look (fun t => decide (t.mode ≠ .awaitingKey 3)) (step { waiting with
        inputs := [{ quiet with keys := pressing 0 }] }) = some true := by decide

/-- A wait iteration that goes on, with a tick, and another register to keep. -/
theorem witness_StateSurvivesTheWait :
    waiting.mode = .awaitingKey 3 ∧ waiting.input.stop = false ∧ (0xF : Reg) ≠ 3 ∧
      look (fun t => decide (t.mode = .awaitingKey 3)) (step { waiting with subtick := 7 }) = some true := by decide

/-- Two live iterations, the first of which ticks; and both clauses of the accounting. -/
theorem witness_EveryLiveIterationCountsTowardTheTick :
    (let s : State := { waiting with
      subtick := 7, inputs := [quiet, quiet] }
     s.subtick < s.params.tickRatio ∧ s.subtick + 1 = s.params.tickRatio ∧
      look (fun t => decide (t.status = .live ∧ t.subtick = 1)) (runFor 2 s) = some true) ∧
    start.subtick + 1 ≠ start.params.tickRatio := by decide

theorem witness_FaultsArePrecise :
    start.status = .live ∧ look (fun t => decide (t.status ≠ .live)) (exec .ret start) = some true ∧
      look (fun t => decide (t.status = .faulted (.fetchOutOfRange 4095))) (step (start.jump 4095)) = some true := by
  decide

/-- An operand without a value, all operands with one, and both settings of RESET_ZERO_REGS. -/
theorem witness_UninitialisedReads :
    ¬ blank.readsOk (.ldMemVx 0xF) ∧ (blank.setV 0 1).readsOk (.jpV0 0x300) ∧
      (blank.setI 1).readsOk (.ldVxMem 0xF) ∧ (blank.setI 1).status = .live ∧
      look (fun t => decide (t.status = .live)) (exec (.ldVxMem 0xF) (blank.setI 1)) = some true ∧
      start.params.resetZeroRegs = true ∧ valueless.resetZeroRegs = false := by decide

theorem witness_OnlyCallAndRetReachTheStack :
    (Instr.cls ≠ .ret ∧ ∀ nnn, Instr.cls ≠ .call nnn) ∧ ∃ t, exec .cls start = .next t :=
  ⟨⟨nofun, fun _ => nofun⟩, _, rfl⟩

/-- States that differ in stack[15] alone: with 15 entries in use it is dead, and a CALL overwrites it. -/
theorem witness_DeadStackEntriesAreNeverRead :
    let s : State := { start with sp := 15 }
    let stk := s.stack.set 15 0x222
    (∀ j : Fin 16, j.val < s.sp.val → stk[j.val]'j.isLt = s.stack[j.val]'j.isLt) ∧ stk ≠ s.stack ∧
      look (fun t => decide (t.sp.val = 16)) (exec (.call 0x300) s) = some true := by decide

theorem witness_NoInstructionReadsTheSoundTimer :
    (∃ t, exec (.ldStVx 0) start = .next t) ∧ (∃ t, exec .cls start = .next t) ∧ ∀ x, Instr.cls ≠ .ldStVx x :=
  ⟨⟨_, rfl⟩, ⟨_, rfl⟩, fun _ => nofun⟩

theorem witness_OnlyFourInstructionsReachMemory :
    (∀ x y n, Instr.cls ≠ .drw x y n) ∧ (∀ x, Instr.cls ≠ .ldBVx x) ∧ (∀ x, Instr.cls ≠ .ldMemVx x) ∧
      (∀ x, Instr.cls ≠ .ldVxMem x) ∧ ∃ t, exec .cls start = .next t :=
  ⟨fun _ _ _ => nofun, fun _ => nofun, fun _ => nofun, fun _ => nofun, _, rfl⟩

/-- The last addresses of memory: V0 and V1 stored at 4094 and fetched there; the digits stored at 4093 to 4095. -/
theorem witness_StoresAreSeenByTheNextFetch :
    (indexed 4094).memWf ∧ (indexed 4094).status = .live ∧
      look (fun t => decide (t.status = .live)) (exec (.ldMemVx 1) (indexed 4094)) = some true ∧
      (0 : Reg).toNat + 1 ≤ (1 : Reg).toNat ∧ (4094#16).toNat = (indexed 4094).i.toNat + (0 : Reg).toNat ∧
      look (fun t => decide (t.status = .live)) (exec (.ldBVx 0) (indexed 4093)) = some true := by decide

/-- The sub-tick counter at its largest, and memory with an entry. -/
theorem witness_StepKeepsTheStateInvariant :
    let s : State := { start.writeBytes 512 [0x12, 0x34] with
      subtick := 7 }
    s.inv ∧ s.mem ≠ [] ∧ look (fun t => decide (t.subtick = 0)) (step s) = some true := by decide

/-- The jump to the largest pc, and a CALL at the last pc that fetches. -/
theorem witness_StepKeepsPcBounded :
    (start.setV 0 0xFF).pcBounded ∧
      look (fun t => decide (t.pc = 0x10FE)) (stepOf 0xBFFF (start.setV 0 0xFF)) = some true ∧
      State.pcBounded { start.jump 4094 with sp := 15 } ∧
      look (fun t => decide (t.stack[15] = 4096)) (stepOf 0x2FFF { start.jump 4094 with sp := 15 }) = some true := by
  decide

theorem witness_ConstructionMeetsTheInvariants :
    Config.Params.wellFormed Config.Params.default = true ∧ Config.Params.wellFormed snapshot = true := by decide

theorem witness_GlyphsArePreloadedAtStrideSixteen :
    5 < 4096 ∧ 4095 < 4096 ∧ (∀ (d : Fin 16) (r : Fin 5), 5 ≠ 16 * d.val + r.val) ∧
      ∀ (d : Fin 16) (r : Fin 5), 4095 ≠ 16 * d.val + r.val := by decide

/-- Images of 3583 and 3584 bytes, and an empty one. -/
theorem witness_ProgramLoad :
    512 + (List.replicate 3583 (0 : Byte)).length < 4096 ∧ 4096 ≤ 512 + (List.replicate 3584 (0 : Byte)).length ∧
      512 + ([] : List Byte).length < 4096 := by
  simp only [List.length_replicate]
  decide

theorem witness_JumpWithOffsetIsExact :
    start.readsOk (.jpV0 0xFFF) ∧ (blank.setV 0 0xFF).readsOk (.jpV0 0xFFF) := by decide

/-- 15 entries in use, and 16. -/
theorem witness_CallPushesTheReturnAddress :
    (State.sp { start with sp := 15 }).val < 16 ∧ (State.sp { start with sp := 16 }).val = 16 := by decide

/-- 16 entries in use, 1, and none. -/
theorem witness_RetPopsTheReturnAddress :
    (State.sp { start with sp := 16 }).val = (15 : Fin 16).val + 1 ∧
      (State.sp { start with sp := 1 }).val = (0 : Fin 16).val + 1 ∧ start.sp.val = 0 := by decide

theorem witness_RetContinuesAfterTheCall :
    ∃ t, exec (.call 0x300) { start with sp := 15 } = .next t ∧
      (decide (t.sp.val = 16 ∧ (State.setV t 0 7).sp = t.sp ∧ (State.setV t 0 7).stack = t.stack)) = true :=
  exists_next (p := fun t => decide (t.sp.val = 16 ∧ (t.setV 0 7).sp = t.sp ∧ (t.setV 0 7).stack = t.stack)) (by decide)

theorem witness_SixteenNestedCallsSucceed :
    start.status = .live ∧ start.sp.val = 0 ∧ (List.replicate 16 (0x200 : Addr12)).length = 16 := by decide

/-- Operands with a value under both settings of RESET_ZERO_REGS, and operands without one. -/
theorem witness_SkipsAdvanceByFourOrTwo :
    start.readsOk (.seVxKk 0xF 0) ∧ start.readsOk (.sneVxVy 0xF 0xF) ∧ (blank.setV 3 1).readsOk (.seVxVy 3 3) ∧
      ¬ blank.readsOk (.seVxKk 3 0) ∧ ¬ blank.readsOk (.sneVxKk 3 0) ∧ ¬ (blank.setV 3 1).readsOk (.seVxVy 3 4) ∧
      ¬ (blank.setV 3 1).readsOk (.sneVxVy 4 3) ∧ start.readsOk (.sneVxKk 0 0) := by decide

theorem witness_RegisterLoads :
    start.readsOk (.ldVxVy 0xF 0x0) ∧ ¬ (blank.setV 1 1).readsOk (.ldVxVy 1 0) ∧ (0x0 : Reg) ≠ 0xF := by decide

theorem witness_AddImmediateWrapsWithoutFlag :
    start.readsOk (.addVxKk 0xF 0xFF) ∧ ¬ blank.readsOk (.addVxKk 0xF 0xFF) := by decide

theorem witness_BitwiseOperations :
    start.readsOk (.orVxVy 0xF 1) ∧ start.readsOk (.andVxVy 1 1) ∧ start.readsOk (.xorVxVy 1 0xF) ∧
      ¬ (blank.setV 1 1).readsOk (.orVxVy 1 2) ∧ ¬ (blank.setV 1 1).readsOk (.andVxVy 2 1) ∧
      ¬ blank.readsOk (.xorVxVy 1 2) := by decide

/-- x = 0xF and x not 0xF; V0 + V1 at 255 and at 256. -/
theorem witness_AddSetsTheCarry :
    start.readsOk (.addVxVy 0xF 1) ∧ start.readsOk (.addVxVy 0 1) ∧ ¬ blank.readsOk (.addVxVy 0 1) ∧
      256 ≤ (((start.setV 0 0xFF).setV 1 1).getV 0).toNat + (((start.setV 0 0xFF).setV 1 1).getV 1).toNat ∧
      ¬ 256 ≤ ((start.setV 0 0xFF).getV 0).toNat + ((start.setV 0 0xFF).getV 1).toNat := by decide

theorem witness_SubtractSetsTheBorrow :
    start.readsOk (.subVxVy 0xF 1) ∧ start.readsOk (.subn 0 0xF) ∧ ¬ blank.readsOk (.subVxVy 0 1) ∧
      ¬ blank.readsOk (.subn 0 1) := by decide

/-- x = 0xF under both settings of VF_SHIFT_DEST_MODE, and x not 0xF. -/
theorem witness_ShiftsByOne :
    start.readsOk (.shr 0xF 0) ∧ start.params.vfShiftDestMode = .sequential ∧ start.readsOk (.shl 0 0xF) ∧
      State.readsOk { start with params := snapshot } (.shl 0xF 0) ∧ snapshot.vfShiftDestMode = .snapshot := by decide

theorem witness_IndexRegisterWrites :
    start.readsOk (.addIVx 0xF) ∧ start.readsOk (.ldFVx 0xF) ∧ ((blank.setI 0xFFFF).setV 0 1).readsOk (.addIVx 0) := by
  decide

/-- I = 4093, the last that fits, and 4094. -/
theorem witness_DecimalDigitsAreStored :
    (indexed 4093).memWf ∧ (indexed 4093).readsOk (.ldBVx 0) ∧ (indexed 4093).i.toNat + 2 ≤ 4095 ∧
      (indexed 4094).memWf ∧ (indexed 4094).readsOk (.ldBVx 0) ∧ 4095 < (indexed 4094).i.toNat + 2 := by decide

/-- x = 0xF at I = 4080, the last that fits, and 4081; x = 0 at 4095 and 4096. -/
theorem witness_RegistersAreStored :
    (indexed 4080).memWf ∧ (indexed 4080).readsOk (.ldMemVx 0xF) ∧ (indexed 4080).i.toNat + (0xF : Reg).toNat ≤ 4095 ∧
      4095 < (indexed 4081).i.toNat + (0xF : Reg).toNat ∧ (indexed 4095).i.toNat + (0 : Reg).toNat ≤ 4095 ∧
      4095 < (indexed 4096).i.toNat + (0 : Reg).toNat ∧ (0xF : Reg).toNat ≤ (0xF : Reg).toNat := by decide

theorem witness_RegistersAreLoaded :
    (indexed 4080).readsOk (.ldVxMem 0xF) ∧ (indexed 4080).i.toNat + (0xF : Reg).toNat ≤ 4095 ∧
      (indexed 4081).readsOk (.ldVxMem 0xF) ∧ 4095 < (indexed 4081).i.toNat + (0xF : Reg).toNat ∧
      (blank.setI 0).readsOk (.ldVxMem 0xF) := by decide

/-- V0 stored at 4095; V0 then overwritten; V0 loaded back. -/
theorem witness_StoredRegistersLoadBack :
    (indexed 4095).memWf ∧ (indexed 4095).status = .live ∧
      ∃ t, exec (.ldMemVx 0) (indexed 4095) = .next t ∧
        (decide (t.status = .live ∧ (t.setV 0 0).mem = t.mem ∧ (t.setV 0 0).params = t.params ∧
          (t.setV 0 0).i = t.i ∧ (t.setV 0 0).iWritten = t.iWritten ∧
          look (fun u => u.getV 0) (exec (.ldVxMem 0) (t.setV 0 0)) = some 0xFF)) = true :=
  ⟨by decide, by decide, exists_next (p := fun t => decide (t.status = .live ∧ (t.setV 0 0).mem = t.mem ∧
    (t.setV 0 0).params = t.params ∧ (t.setV 0 0).i = t.i ∧ (t.setV 0 0).iWritten = t.iWritten ∧
    look (fun u => u.getV 0) (exec (.ldVxMem 0) (t.setV 0 0)) = some 0xFF)) (by decide)⟩

/-- n = 0 at I = 0xFFFF, n = 15 at the last I that fits and one past it. -/
theorem witness_DrawEmitsTheSprite :
    (indexed 0xFFFF).readsOk (.drw 0xF 0 0) ∧ ((0x0 : Nib).toNat = 0) ∧ (indexed 4081).readsOk (.drw 0 0 0xF) ∧
      (indexed 4081).i.toNat + (0xF : Nib).toNat ≤ 4096 ∧ (indexed 4082).readsOk (.drw 0 0 0xF) ∧
      0 < (0xF : Nib).toNat ∧ 4096 < (indexed 4082).i.toNat + (0xF : Nib).toNat := by decide

/-- V1 = 15 and V1 = 16. -/
theorem witness_KeySkipsTestTheLevel :
    (start.setV 1 15).readsOk (.skp 1) ∧ ((start.setV 1 15).getV 1).toNat = (15 : Key).toNat ∧
      (start.setV 1 16).readsOk (.skp 1) ∧ 15 < ((start.setV 1 16).getV 1).toNat := by decide

theorem witness_TimersAreReadAndSet :
    start.readsOk (.ldDtVx 0xF) ∧ start.readsOk (.ldStVx 0xF) ∧ ¬ blank.readsOk (.ldDtVx 0) ∧
      ¬ blank.readsOk (.ldStVx 0) := by decide

theorem witness_FlowFrame : familyOf (.call 0x300) = .flow ∧ ∃ t, exec (.call 0x300) start = .next t :=
  ⟨rfl, let ⟨t, h, _⟩ := exists_next (p := fun _ => true) (by decide); ⟨t, h⟩⟩

theorem witness_AluFrame : familyOf (.shr 0xF 0) = .alu ∧ ∃ t, exec (.shr 0xF 0) start = .next t :=
  ⟨rfl, let ⟨t, h, _⟩ := exists_next (p := fun _ => true) (by decide); ⟨t, h⟩⟩

theorem witness_IndexMemoryFrame :
    (indexed 4080).memWf ∧ familyOf (.ldMemVx 0xF) = .indexMemory ∧
      ∃ t, exec (.ldMemVx 0xF) (indexed 4080) = .next t ∧ (decide (t.status = .live)) = true :=
  ⟨by decide, rfl, exists_next (p := fun t => decide (t.status = .live)) (by decide)⟩

theorem witness_DisplayKeypadTimerFrame :
    familyOf (.drw 0 0 5) = .display ∧ (∃ t, exec (.drw 0 0 5) start = .next t) ∧
      familyOf (.ldVxK 0) = .keypadTimer ∧ ∃ t, exec (.ldVxK 0) start = .next t :=
  ⟨rfl, let ⟨t, h, _⟩ := exists_next (p := fun _ => true) (by decide); ⟨t, h⟩, rfl, _, rfl⟩

theorem witness_CollisionAnswerReachesVfAlone :
    ∃ t, step (((start.setI 0x0A0).withFetchWord 16 0xD125).answerDraw false) = .next t ∧
      (decide (t.getV 0xF = 0 ∧ t.events.length = 1)) = true :=
  exists_next (p := fun t => decide (t.getV 0xF = 0 ∧ t.events.length = 1)) (by decide)

end Sys2Proof.Tests
end

section
/-!
SUPPORT. Frames: one rule per update of the state, and from them what each instruction leaves unchanged
(spec/10_state.md R28 and the instruction rules), said once for every instruction.
-/
namespace Sys2Proof.Machine

variable {w : Part → Prop} {s t u : State}

/-! ## Frames in general -/

theorem Part.same_trans {p : Part} (h : p.same s t) (h' : p.same t u) : p.same s u := by
  cases p <;> simp_all [Part.same]

theorem Frame.trans (h : Frame w s t) (h' : Frame w t u) : Frame w s u where
  parts p hp := Part.same_trans (h.parts p hp) (h'.parts p hp)
  params := h'.params.trans h.params
  keys := ⟨h'.keys.1.trans h.keys.1, h'.keys.2.trans h.keys.2⟩
  subtick := h'.subtick.trans h.subtick
  inputs := ⟨h'.inputs.1.trans h.inputs.1, h'.inputs.2.trans h.inputs.2⟩

theorem Frame.mono {w' : Part → Prop} (h : Frame w s t) (hw : ∀ p, w p → w' p) : Frame w' s t :=
  { h with parts := fun p hp => h.parts p (mt (hw p) hp) }

/-! ## One rule per update -/

variable (s)

/-- `pc` and the status are no parts: any frame lets them change. -/
theorem frame_pc_status (w : Part → Prop) (a : Word) (x : Status) :
    Frame w s { s with pc := a, status := x } :=
  ⟨fun p _ => by cases p <;> simp [Part.same, State.getV, State.readByte], rfl, ⟨rfl, rfl⟩, rfl, ⟨rfl, rfl⟩⟩

theorem frame_refl (w : Part → Prop) : Frame w s s := frame_pc_status s w s.pc s.status

theorem frame_setStatus (w : Part → Prop) (x : Status) : Frame w s (s.setStatus x) := frame_pc_status s w s.pc x

theorem frame_jump (w : Part → Prop) (a : Word) : Frame w s (s.jump a) := frame_pc_status s w a s.status

theorem frame_advance (w : Part → Prop) : Frame w s s.advance := frame_jump s w _

theorem frame_skipIf (w : Part → Prop) (c : Bool) : Frame w s (s.skipIf c) := frame_jump s w _

theorem frame_setV {r : Reg} (hr : w (.reg r)) (b : Byte) : Frame w s (s.setV r b) where
  parts p hp := by
    cases p with
    | reg q =>
      have hq : q ≠ r := by rintro rfl; exact hp hr
      exact ⟨by simp [hq], by rw [State.setV_written, if_neg hq]⟩
    | _ => simp [Part.same]
  params := rfl
  keys := ⟨rfl, rfl⟩
  subtick := rfl
  inputs := ⟨rfl, rfl⟩

theorem frame_setI (h : w .index) (a : Word) : Frame w s (s.setI a) :=
  ⟨fun p hp => by cases p <;> simp_all [Part.same], rfl, ⟨rfl, rfl⟩, rfl, ⟨rfl, rfl⟩⟩

theorem frame_setDt (h : w .dt) (b : Byte) : Frame w s (s.setDt b) :=
  ⟨fun p hp => by cases p <;> simp_all [Part.same], rfl, ⟨rfl, rfl⟩, rfl, ⟨rfl, rfl⟩⟩

theorem frame_setSt (h : w .st) (b : Byte) : Frame w s (s.setSt b) :=
  ⟨fun p hp => by cases p <;> simp_all [Part.same], rfl, ⟨rfl, rfl⟩, rfl, ⟨rfl, rfl⟩⟩

theorem frame_setMode (h : w .mode) (m : Mode) : Frame w s (s.setMode m) :=
  ⟨fun p hp => by cases p <;> simp_all [Part.same], rfl, ⟨rfl, rfl⟩, rfl, ⟨rfl, rfl⟩⟩

theorem frame_emit (h : w .events) (e : Event) : Frame w s (s.emit e) :=
  ⟨fun p hp => by cases p <;> simp_all [Part.same], rfl, ⟨rfl, rfl⟩, rfl, ⟨rfl, rfl⟩⟩

/-- A transfer that also writes the stack or SP: CALL and RET. -/
theorem frame_stack (h : w .stack) (a : Word) (stk : Vector Word 16) (sp : Fin 17) :
    Frame w s { s with pc := a, stack := stk, sp := sp } :=
  ⟨fun p hp => by cases p <;> simp_all [Part.same, State.getV, State.readByte], rfl, ⟨rfl, rfl⟩, rfl, ⟨rfl, rfl⟩⟩

/-- Where every byte may be written, a store needs no canonical memory. -/
theorem frame_writeBytes (h : ∀ a, w (.byte a)) (a : Nat) (bytes : List Byte) : Frame w s (s.writeBytes a bytes) := by
  rw [State.writeBytes_eq]
  exact ⟨fun p hp => by cases p <;> simp_all [Part.same, State.getV], rfl, ⟨rfl, rfl⟩, rfl, ⟨rfl, rfl⟩⟩

theorem frame_shiftWrites {x : Reg} (hx : w (.reg x)) (hF : w (.reg regF)) (p : Byte) (out : Bool) (f : Byte → Byte) :
    Frame w s (shiftWrites x p out f s) := by
  obtain ⟨b, hb⟩ := shiftWrites_eq x p out f s
  rw [hb]
  exact (frame_setV s hF _).trans (frame_setV _ hx b)

theorem frame_loadRegs (bytes : List Byte) (k : Nat) (hk : k + bytes.length ≤ 16)
    (hw : ∀ r : Reg, k ≤ r.toNat → r.toNat < k + bytes.length → w (.reg r)) :
    Frame w s (loadRegs k bytes s) := by
  induction bytes generalizing s k with
  | nil => exact frame_refl s w
  | cons b bs ih =>
    simp only [List.length_cons] at hk hw
    have hr : (BitVec.ofNat 4 k).toNat = k := by simp only [BitVec.toNat_ofNat]; omega
    have head : Frame w s (s.setV (BitVec.ofNat 4 k) b) := frame_setV s (hw _ (by omega) (by omega)) b
    exact head.trans (ih _ (k + 1) (by omega) fun r h1 h2 => hw r (by omega) (by omega))

/-! ## The frame of every instruction -/

/-- LD B and LD [I], Vx, the instructions that store to memory (R40). -/
def storesToMemory : Instr → Bool
  | .ldBVx _ => true
  | .ldMemVx _ => true
  | _ => false

/-- What an instruction may write when memory is not known to be canonical (log 14): a store may then reach every
byte. -/
def mayWriteOrStore (i : Instr) (s : State) (p : Part) : Prop :=
  mayWrite i s p ∨ storesToMemory i = true ∧ ∃ a, p = .byte a

variable {s}

theorem effect_frame {i : Instr} (h : Effect s i t) : Frame (mayWriteOrStore i s) s t := by
  cases i with
  | cls => subst h; exact (frame_emit s (.inl rfl) _).trans (frame_advance _ _)
  | ret => obtain ⟨_, _, rfl⟩ := h; exact frame_stack s (.inl rfl) _ _ _
  | jp => subst h; exact frame_jump s _ _
  | call => obtain ⟨_, rfl⟩ := h; exact frame_stack s (.inl rfl) _ _ _
  | seVxKk | sneVxKk | seVxVy | sneVxVy => subst h; exact frame_skipIf s _ _
  | jpV0 => subst h; exact frame_jump s _ _
  | ldVxKk | addVxKk | ldVxVy | orVxVy | andVxVy | xorVxVy | rnd | ldVxDt =>
    subst h; exact (frame_setV s (.inl rfl) _).trans (frame_advance _ _)
  | addVxVy | subVxVy | subn =>
    subst h
    exact ((frame_setV s (.inl (.inl rfl)) _).trans (frame_setV _ (.inl (.inr rfl)) _)).trans (frame_advance _ _)
  | shr | shl =>
    subst h; exact (frame_shiftWrites s (.inl (.inl rfl)) (.inl (.inr rfl)) _ _ _).trans (frame_advance _ _)
  | ldINnn | addIVx | ldFVx => subst h; exact (frame_setI s (.inl rfl) _).trans (frame_advance _ _)
  | drw =>
    obtain ⟨_, rfl⟩ := h
    exact ((frame_emit s (.inl (.inl rfl)) _).trans (frame_setV _ (.inl (.inr rfl)) _)).trans (frame_advance _ _)
  | skp | sknp => obtain ⟨_, rfl⟩ := h; exact frame_skipIf s _ _
  | ldVxK => subst h; exact (frame_setMode s (.inl rfl) _).trans (frame_advance _ _)
  | ldDtVx => subst h; exact (frame_setDt s (.inl rfl) _).trans (frame_advance _ _)
  | ldStVx => subst h; exact (frame_setSt s (.inl rfl) _).trans (frame_advance _ _)
  | ldBVx | ldMemVx =>
    obtain ⟨_, rfl⟩ := h
    exact (frame_writeBytes s (fun a => .inr ⟨rfl, a, rfl⟩) _ _).trans (frame_advance _ _)
  | ldVxMem x =>
    obtain ⟨_, rfl⟩ := h
    have := x.isLt
    have regs : Frame (mayWriteOrStore (.ldVxMem x) s) s (loadRegs 0 (s.readBytes s.i.toNat (x.toNat + 1)) s) :=
      frame_loadRegs s _ 0 (by simp; omega) fun r _ hr => .inl (by simp at hr; simp [mayWrite, Part.inRegsTo]; omega)
    exact regs.trans (frame_advance _ _)

/-- Whatever an instruction answers, a fault included, it keeps every part it may not write. -/
theorem exec_frame {i : Instr} (h : exec i s = .next t) : Frame (mayWriteOrStore i s) s t := by
  rcases exec_next h with ⟨f, rfl⟩ | he
  · exact frame_setStatus s _ _
  · exact effect_frame he

theorem stores_family {i : Instr} (h : storesToMemory i = true) : familyOf i = .indexMemory := by
  cases i <;> simp_all [storesToMemory, familyOf]

/-- Outside the index and memory family, nothing need be known of memory's form. -/
theorem exec_frame_of_family {i : Instr} (hi : familyOf i ≠ .indexMemory) (h : exec i s = .next t) :
    Frame (mayWrite i s) s t :=
  (exec_frame h).mono fun _ hp => hp.resolve_right fun hs => hi (stores_family hs.1)

/-- Settles O54: no flow instruction stores, so the frame of every instruction is its exact one. -/
theorem flowFrame : Obligations.FlowFrame := fun _ _ _ hi h => exec_frame_of_family (by simp [hi]) h

/-- Settles O55: no instruction of the ALU stores, so the frame of every instruction is its exact one. -/
theorem aluFrame : Obligations.AluFrame := fun _ _ _ hi h => exec_frame_of_family (by simp [hi]) h

end Sys2Proof.Machine
end

section
/-!
SUPPORT. Which instructions see a piece of the state (spec/10_state.md R20, R21). An overlay is a change of the state
that no operand read, operation result or named update can tell; an instruction commutes with it, fault or no fault.
-/
namespace Sys2Proof.Machine

/-! ## Overlays -/

/-- The result with `f` applied to its next state, if it has one. -/
def mapNext (f : State → State) : Result → Result
  | .next s => .next (f s)
  | .fault r => .fault r
  | .refused r => .refused r

/-- `f` changes nothing that an instruction reads but for memory and the call stack, and commutes with every update but
those of memory, the call stack and ST. -/
structure Overlay (f : State → State) : Prop where
  getV : ∀ s r, (f s).getV r = s.getV r
  vReadable : ∀ s r, (f s).vReadable r = s.vReadable r
  i : ∀ s, (f s).i = s.i
  iReadable : ∀ s, (f s).iReadable = s.iReadable
  keys : ∀ s, (f s).keys = s.keys
  dt : ∀ s, (f s).dt = s.dt
  input : ∀ s, (f s).input = s.input
  shiftMode : ∀ s, (f s).params.vfShiftDestMode = s.params.vfShiftDestMode
  setStatus : ∀ s x, (f s).setStatus x = f (s.setStatus x)
  setV : ∀ s r b, (f s).setV r b = f (s.setV r b)
  setI : ∀ s a, (f s).setI a = f (s.setI a)
  setDt : ∀ s b, (f s).setDt b = f (s.setDt b)
  setMode : ∀ s m, (f s).setMode m = f (s.setMode m)
  jump : ∀ s a, (f s).jump a = f (s.jump a)
  advance : ∀ s, (f s).advance = f s.advance
  skipIf : ∀ s c, (f s).skipIf c = f (s.skipIf c)
  emit : ∀ s e, (f s).emit e = f (s.emit e)

/-- Instruction `i` at `s` does under `f` the same as without it. -/
def Commutes (f : State → State) (i : Instr) (s : State) : Prop := exec i (f s) = mapNext f (exec i s)

/-- The instructions that access memory (R40). -/
def reachesMemory : Instr → Bool
  | .drw _ _ _ => true
  | .ldBVx _ => true
  | .ldMemVx _ => true
  | .ldVxMem _ => true
  | _ => false

theorem next_comm {f : State → State} {t t' : State} (h : t' = f t) : (.next t' : Result) = mapNext f (.next t) :=
  congrArg Host.Outcome.next h

theorem writeBytes_comm {f : State → State} (hw : ∀ s a b, (f s).writeByte a b = f (s.writeByte a b))
    (bytes : List Byte) (s : State) (a : Nat) : (f s).writeBytes a bytes = f (s.writeBytes a bytes) := by
  induction bytes generalizing s a with
  | nil => rfl
  | cons b bs ih => rw [State.writeBytes, hw, ih, State.writeBytes]

/-! ## One rule per shared operation -/

section Rules

variable {f : State → State} (hf : Overlay f) {s : State}

include hf

theorem Overlay.raise_comm (s : State) (c : FaultCode) : raise c (f s) = mapNext f (raise c s) :=
  congrArg Host.Outcome.next (hf.setStatus s _)

theorem Overlay.writeV_comm (x : Reg) (r : Byte) : writeV x r (f s) = mapNext f (writeV x r s) :=
  next_comm (by rw [hf.setV, hf.advance])

theorem Overlay.writeVFlag_comm (x : Reg) (r : Byte) (c : Bool) :
    writeVFlag x r c (f s) = mapNext f (writeVFlag x r c s) :=
  next_comm (by rw [State.setFlag_eq, hf.setV, hf.setV, hf.advance]; rfl)

theorem Overlay.withV_comm {r : Reg} {k k' : Byte → Result} (h : k' (s.getV r) = mapNext f (k (s.getV r))) :
    withV r (f s) k' = mapNext f (withV r s k) := by
  unfold withV
  rw [hf.vReadable, hf.getV, h, hf.raise_comm, apply_ite (mapNext f)]

theorem Overlay.withI_comm {k k' : Word → Result} (h : k' s.i = mapNext f (k s.i)) :
    withI (f s) k' = mapNext f (withI s k) := by
  unfold withI
  rw [hf.iReadable, hf.i, h, hf.raise_comm, apply_ite (mapNext f)]

theorem Overlay.withVs_comm {rs : List Reg} {k k' : List Byte → Result}
    (h : k' (rs.map s.getV) = mapNext f (k (rs.map s.getV))) :
    withVs rs (f s) k' = mapNext f (withVs rs s k) := by
  have values : rs.map (f s).getV = rs.map s.getV := List.map_congr_left fun r _ => hf.getV s r
  unfold withVs
  simp only [hf.vReadable, values, h, hf.raise_comm]
  split <;> rfl

theorem Overlay.withKey_comm {x : Reg} {k k' : Bool → Result} (h : ∀ down, k' down = mapNext f (k down)) :
    withKey x (f s) k' = mapNext f (withKey x s k) := by
  refine hf.withV_comm ?_
  simp only [hf.keys, h, hf.raise_comm]
  split <;> rfl

theorem Overlay.shiftWrites_comm (x : Reg) (p : Byte) (out : Bool) (g : Byte → Byte) :
    shiftWrites x p out g (f s) = f (shiftWrites x p out g s) := by
  simp only [shiftWrites, State.setFlag_eq, hf.shiftMode, hf.setV, hf.getV]

theorem Overlay.loadRegs_comm (bytes : List Byte) (k : Nat) : loadRegs k bytes (f s) = f (loadRegs k bytes s) := by
  induction bytes generalizing k s with
  | nil => rfl
  | cons b bs ih => rw [loadRegs, hf.setV, ih, loadRegs]

theorem Overlay.memRead_comm (hr : ∀ s a, (f s).readByte a = s.readByte a) {a : Word} {n : Nat}
    {k k' : List Byte → Result} (h : ∀ bytes, k' bytes = mapNext f (k bytes)) :
    memRead a n (f s) k' = mapNext f (memRead a n s k) := by
  have bytes : (f s).readBytes a.toNat n = s.readBytes a.toNat n := by simp only [State.readBytes, hr]
  unfold memRead
  rw [bytes, h, hf.raise_comm, apply_ite (mapNext f)]

theorem Overlay.memWrite_comm (hw : ∀ s a b, (f s).writeByte a b = f (s.writeByte a b)) {a : Word} {bytes : List Byte}
    {k k' : State → Result} (h : ∀ t, k' (f t) = mapNext f (k t)) :
    memWrite a bytes (f s) k' = mapNext f (memWrite a bytes s k) := by
  unfold memWrite
  rw [writeBytes_comm hw, h, hf.raise_comm, apply_ite (mapNext f)]

end Rules

/-! ## Every instruction -/

/-- Every instruction commutes with an overlay, but for those of the call stack, of ST and of memory, which ask for
more. -/
theorem Overlay.commutes {f : State → State} (hf : Overlay f) (i : Instr) (s : State)
    (hret : i = .ret → Commutes f i s) (hcall : ∀ nnn, i = .call nnn → Commutes f i s)
    (hst : ∀ x, i = .ldStVx x → Commutes f i s) (hmem : reachesMemory i = true → Commutes f i s) :
    Commutes f i s := by
  unfold Commutes exec
  cases i with
  | ret => exact hret rfl
  | call nnn => exact hcall nnn rfl
  | ldStVx x => exact hst x rfl
  | drw | ldBVx | ldMemVx | ldVxMem => exact hmem rfl
  | cls => exact next_comm (by rw [hf.emit, hf.advance])
  | jp => exact next_comm (hf.jump s _)
  | jpV0 => exact hf.withV_comm (next_comm (hf.jump s _))
  | seVxKk | sneVxKk => exact hf.withV_comm (next_comm (hf.skipIf s _))
  | seVxVy | sneVxVy => exact hf.withV_comm (hf.withV_comm (next_comm (hf.skipIf s _)))
  | skp | sknp => exact hf.withKey_comm fun _ => next_comm (hf.skipIf s _)
  | ldVxKk => exact hf.writeV_comm _ _
  | addVxKk | ldVxVy => exact hf.withV_comm (hf.writeV_comm _ _)
  | orVxVy | andVxVy | xorVxVy => exact hf.withV_comm (hf.withV_comm (hf.writeV_comm _ _))
  | addVxVy | subVxVy | subn => exact hf.withV_comm (hf.withV_comm (hf.writeVFlag_comm _ _ _))
  | shr | shl => exact hf.withV_comm (next_comm (by rw [hf.shiftWrites_comm, hf.advance]))
  | rnd => exact next_comm (by rw [hf.input, hf.setV, hf.advance])
  | ldVxDt => exact next_comm (by rw [hf.dt, hf.setV, hf.advance])
  | ldVxK => exact next_comm (by rw [hf.setMode, hf.advance])
  | ldDtVx => exact hf.withV_comm (next_comm (by rw [hf.setDt, hf.advance]))
  | ldINnn => exact next_comm (by rw [hf.setI, hf.advance])
  | addIVx => exact hf.withI_comm (hf.withV_comm (next_comm (by rw [hf.setI, hf.advance])))
  | ldFVx => exact hf.withV_comm (next_comm (by rw [hf.setI, hf.advance]))

/-- The memory instructions commute with an overlay of which memory knows nothing. -/
theorem Overlay.commutes_of_reachesMemory {f : State → State} (hf : Overlay f)
    (hr : ∀ s a, (f s).readByte a = s.readByte a) (hw : ∀ s a b, (f s).writeByte a b = f (s.writeByte a b))
    {i : Instr} (s : State) (hi : reachesMemory i = true) : Commutes f i s := by
  unfold Commutes exec
  cases i with
  | drw =>
    refine hf.withV_comm (hf.withV_comm (hf.withI_comm (hf.memRead_comm hr fun _ => next_comm ?_)))
    rw [hf.emit, State.setFlag_eq, hf.input, hf.setV, hf.advance]
    rfl
  | ldBVx =>
    exact hf.withV_comm (hf.withI_comm (hf.memWrite_comm hw fun t => next_comm (hf.advance t)))
  | ldMemVx =>
    exact hf.withI_comm (hf.withVs_comm (hf.memWrite_comm hw fun t => next_comm (hf.advance t)))
  | ldVxMem =>
    exact hf.withI_comm (hf.memRead_comm hr fun _ => next_comm (by rw [hf.loadRegs_comm, hf.advance]))
  | _ => cases hi

/-! ## CALL and RET, each by the one test it makes -/

variable {s : State}

theorem exec_ret_of_empty (h : s.sp.val = 0) : exec .ret s = raise (.stackUnderflow s.pc) s := dif_pos h

theorem exec_ret_of_pos (h : 0 < s.sp.val) :
    exec .ret s = .next { s with
      pc := s.stack[s.sp.val - 1]'(by have := s.sp.isLt; omega), sp := ⟨s.sp.val - 1, by omega⟩ } :=
  dif_neg (by omega)

theorem exec_call_of_full (nnn : Addr12) (h : ¬ s.sp.val < 16) :
    exec (.call nnn) s = raise (.stackOverflow s.pc) s := dif_neg h

theorem exec_call_of_lt (nnn : Addr12) (h : s.sp.val < 16) :
    exec (.call nnn) s = .next { s with
      pc := addrWord nnn, stack := s.stack.set s.sp.val (s.pc + 2) h, sp := ⟨s.sp.val + 1, by omega⟩ } :=
  dif_pos h

/-- CALL and RET commute with an overlay that leaves pc and the call stack alone. -/
theorem Overlay.commutes_of_keepsStack {f : State → State} (hf : Overlay f) (hpc : ∀ s, (f s).pc = s.pc)
    (hstack : ∀ s, (f s).stack = s.stack) (hsp : ∀ s, (f s).sp = s.sp)
    (hset : ∀ s a stk sp, { f s with pc := a, stack := stk, sp := sp } = f { s with pc := a, stack := stk, sp := sp })
    (s : State) : Commutes f .ret s ∧ ∀ nnn, Commutes f (.call nnn) s := by
  refine ⟨?_, fun nnn => ?_⟩
  · rcases Nat.eq_zero_or_pos s.sp.val with h0 | hpos
    · rw [Commutes, exec_ret_of_empty h0, exec_ret_of_empty (by rw [hsp, h0]), hpc, hf.raise_comm]
    · rw [Commutes, exec_ret_of_pos hpos, exec_ret_of_pos (by rw [hsp]; exact hpos)]
      exact next_comm (by simp only [hstack, hsp, hset])
  · by_cases hlt : s.sp.val < 16
    · rw [Commutes, exec_call_of_lt nnn hlt, exec_call_of_lt nnn (by rw [hsp]; exact hlt)]
      exact next_comm (by simp only [hpc, hstack, hsp, hset])
    · rw [Commutes, exec_call_of_full nnn hlt, exec_call_of_full nnn (by rw [hsp]; exact hlt), hpc, hf.raise_comm]

/-- LD ST, Vx commutes with an overlay that commutes with the write of ST. -/
theorem Overlay.commutes_ldStVx {f : State → State} (hf : Overlay f) (hset : ∀ s b, (f s).setSt b = f (s.setSt b))
    (x : Reg) (s : State) : Commutes f (.ldStVx x) s := by
  unfold Commutes exec
  exact hf.withV_comm (next_comm (by rw [hset, hf.advance]))

end Sys2Proof.Machine
end

section
/-!
The statements about who reads and writes the state (spec/10_state.md R20, R21, R24): the call stack, its dead entries,
ST, and the mode.
-/
namespace Sys2Proof.Machine

variable {i : Instr} {s t : State}

/-! ## Who may write the stack, ST and the mode -/

theorem mayWriteOrStore_stack (h : mayWriteOrStore i s .stack) : i = .ret ∨ ∃ nnn, i = .call nnn := by
  cases i <;> simp_all [mayWriteOrStore, mayWrite, Part.inBytes, Part.inRegsTo]

theorem mayWriteOrStore_st (h : mayWriteOrStore i s .st) : ∃ x, i = .ldStVx x := by
  cases i <;> simp_all [mayWriteOrStore, mayWrite, Part.inBytes, Part.inRegsTo]

theorem mayWriteOrStore_mode (h : mayWriteOrStore i s .mode) : ∃ x, i = .ldVxK x := by
  cases i <;> simp_all [mayWriteOrStore, mayWrite, Part.inBytes, Part.inRegsTo]

/-- Only CALL and RET write the stack or SP (R20). -/
theorem exec_stack (hret : i ≠ .ret) (hcall : ∀ nnn, i ≠ .call nnn) (h : exec i s = .next t) :
    t.sp = s.sp ∧ t.stack = s.stack :=
  (exec_frame h).parts .stack fun hw => (mayWriteOrStore_stack hw).elim hret fun ⟨nnn, e⟩ => hcall nnn e

/-- Only LD ST, Vx writes ST (R21). -/
theorem exec_st (hst : ∀ x, i ≠ .ldStVx x) (h : exec i s = .next t) : t.st = s.st :=
  (exec_frame h).parts .st fun hw => (mayWriteOrStore_st hw).elim hst

/-! ## The stack -/

/-- `s` with another call stack. -/
def State.withStack (stk : Vector Word 16) (sp : Fin 17) (s : State) : State := { s with stack := stk, sp := sp }

theorem overlay_withStack (stk : Vector Word 16) (sp : Fin 17) : Overlay (State.withStack stk sp) := by
  constructor <;> intros <;> rfl

/-- Every instruction but CALL and RET commutes with putting another call stack in place (R20). -/
theorem commutes_withStack (stk : Vector Word 16) (sp : Fin 17) (s : State) (hret : i ≠ .ret)
    (hcall : ∀ nnn, i ≠ .call nnn) : Commutes (State.withStack stk sp) i s := by
  have hf := overlay_withStack stk sp
  refine hf.commutes i s (fun h => absurd h hret) (fun nnn h => absurd h (hcall nnn)) ?_
    (hf.commutes_of_reachesMemory (fun _ _ => rfl) (fun _ _ _ => rfl) s)
  rintro x rfl
  exact hf.commutes_ldStVx (fun _ _ => rfl) x s

/-- Settles O19: the frame gives that the stack and SP are kept, the overlay of another stack that nothing else is seen
of them. -/
theorem onlyCallAndRetReachTheStack : Obligations.OnlyCallAndRetReachTheStack := by
  intro i s t stk sp hret hcall h
  obtain ⟨hsp, hstack⟩ := exec_stack hret hcall h
  refine ⟨hstack, hsp, (commutes_withStack stk sp s hret hcall).trans ?_⟩
  rw [h]
  rfl

/-! ## Dead stack entries -/

/-- Two call stacks agree in every entry below `n`. -/
def SameBelow (n : Nat) (stk stk' : Vector Word 16) : Prop :=
  ∀ j : Fin 16, j.val < n → stk[j.val]'j.isLt = stk'[j.val]'j.isLt

/-- `i`, which takes `s` to `t`, does at `s` with the stack entries `stk` the same but for entries dead in `t`. -/
def RunsAlikeWith (stk : Vector Word 16) (i : Instr) (s t : State) : Prop :=
  ∃ u, exec i { s with stack := stk } = .next u ∧ u = { t with stack := u.stack } ∧ SameBelow t.sp.val u.stack t.stack

variable {stk : Vector Word 16}

/-- RET reads the entry below SP alone. -/
theorem ret_runsAlike (live : SameBelow s.sp.val stk s.stack) (h : exec .ret s = .next t) :
    RunsAlikeWith stk .ret s t := by
  rcases Nat.eq_zero_or_pos s.sp.val with h0 | hpos
  · rw [exec_ret_of_empty h0] at h
    cases h
    exact ⟨_, exec_ret_of_empty (s := { s with stack := stk }) h0, rfl, live⟩
  · rw [exec_ret_of_pos hpos] at h
    cases h
    have := s.sp.isLt
    have top : stk[s.sp.val - 1] = s.stack[s.sp.val - 1] :=
      live ⟨s.sp.val - 1, by omega⟩ (show s.sp.val - 1 < s.sp.val by omega)
    refine ⟨_, exec_ret_of_pos (s := { s with stack := stk }) hpos, by simp only [top], fun j hj => live j ?_⟩
    exact Nat.lt_of_lt_of_le hj (Nat.sub_le _ 1)

/-- CALL reads no entry and writes the one at SP, in use from then on. -/
theorem call_runsAlike {nnn : Addr12} (live : SameBelow s.sp.val stk s.stack) (h : exec (.call nnn) s = .next t) :
    RunsAlikeWith stk (.call nnn) s t := by
  by_cases hlt : s.sp.val < 16
  · rw [exec_call_of_lt nnn hlt] at h
    cases h
    refine ⟨_, exec_call_of_lt (s := { s with stack := stk }) nnn hlt, rfl, fun j hj => ?_⟩
    by_cases hj' : s.sp.val = j.val
    · simp [hj']
    · have below : j.val < s.sp.val := by have : j.val < s.sp.val + 1 := hj; omega
      simp [Vector.getElem_set_ne _ _ hj', live j below]
  · rw [exec_call_of_full nnn hlt] at h
    cases h
    exact ⟨_, exec_call_of_full (s := { s with stack := stk }) nnn hlt, rfl, live⟩

theorem runsAlike_of_stackless (hret : i ≠ .ret) (hcall : ∀ nnn, i ≠ .call nnn)
    (live : SameBelow s.sp.val stk s.stack) (h : exec i s = .next t) : RunsAlikeWith stk i s t := by
  obtain ⟨hstack, hsp, run⟩ := onlyCallAndRetReachTheStack i s t stk s.sp hret hcall h
  exact ⟨_, run, by rw [← hsp], by rw [hsp, hstack]; exact live⟩

/-- Settles O20, with one lemma for RET, one for CALL, and O19 for every instruction that does not see the stack. -/
theorem deadStackEntriesAreNeverRead : Obligations.DeadStackEntriesAreNeverRead := by
  intro i s t stk live h
  by_cases hret : i = .ret
  · subst hret
    exact ret_runsAlike live h
  · by_cases hcall : ∃ nnn, i = .call nnn
    · obtain ⟨nnn, rfl⟩ := hcall
      exact call_runsAlike live h
    · exact runsAlike_of_stackless hret (fun nnn e => hcall ⟨nnn, e⟩) live h

/-! ## ST -/

theorem overlay_setSt (b : Byte) : Overlay (fun s => s.setSt b) := by
  constructor <;> intros <;> rfl

/-- Every instruction but LD ST, Vx commutes with putting another value in ST (R21). -/
theorem commutes_setSt (b : Byte) (s : State) (hst : ∀ x, i ≠ .ldStVx x) : Commutes (fun s => s.setSt b) i s := by
  have hf := overlay_setSt b
  obtain ⟨ret, call⟩ := hf.commutes_of_keepsStack (fun _ => rfl) (fun _ => rfl) (fun _ => rfl) (fun _ _ _ _ => rfl) s
  refine hf.commutes i s ?_ ?_ (fun x h => absurd h (hst x))
    (hf.commutes_of_reachesMemory (fun _ _ => rfl) (fun _ _ _ => rfl) s)
  · rintro rfl
    exact ret
  · rintro nnn rfl
    exact call nnn

/-- LD ST, Vx overwrites ST, unless it faults. -/
theorem exec_ldStVx_setSt (x : Reg) (b : Byte) (s : State) :
    exec (.ldStVx x) (s.setSt b) =
      if s.vReadable x then exec (.ldStVx x) s else mapNext (fun s => s.setSt b) (exec (.ldStVx x) s) := by
  simp only [exec, execLdStVx]
  cases hx : s.vReadable x
  · rw [withV_of_unreadable _ hx, withV_of_unreadable (s := s.setSt b) _ hx]; rfl
  · rw [withV_of_readable _ hx, withV_of_readable (s := s.setSt b) _ hx]; rfl

/-- Settles O21: LD ST, Vx overwrites ST without reading it, and every other instruction commutes with the overlay of
another ST. -/
theorem noInstructionReadsTheSoundTimer : Obligations.NoInstructionReadsTheSoundTimer := by
  intro i s t b h
  by_cases hst : ∃ x, i = .ldStVx x
  · obtain ⟨x, rfl⟩ := hst
    rw [exec_ldStVx_setSt, h]
    split
    · exact ⟨t, rfl, rfl, fun ne => absurd rfl (ne x)⟩
    · exact ⟨t.setSt b, rfl, rfl, fun ne => absurd rfl (ne x)⟩
  · have hst' : ∀ x, i ≠ .ldStVx x := fun x e => hst ⟨x, e⟩
    have run : exec i (s.setSt b) = mapNext (fun s => s.setSt b) (exec i s) := commutes_setSt b s hst'
    rw [run, h]
    exact ⟨t.setSt b, rfl, rfl, fun _ => ⟨rfl, exec_st hst' h⟩⟩

/-! ## The mode -/

/-- What executing a word does to the mode: it enters AwaitingKey when the word is LD Vx, K, and keeps it otherwise
(R24). -/
theorem executeWord_mode {w : Word} {u : State} (h : executeWord w s = .next u) :
    u.mode = s.mode ∨ ∃ x, decode w = .ok (.ldVxK x) ∧ u.mode = .awaitingKey x := by
  rcases executeWord_next h with ⟨f, rfl⟩ | ⟨i, hd, he⟩ | ⟨_, rfl⟩
  · exact .inl rfl
  · by_cases hw : mayWriteOrStore i s .mode
    · obtain ⟨x, rfl⟩ := mayWriteOrStore_mode hw
      subst he
      exact .inr ⟨x, hd, rfl⟩
    · exact .inl ((effect_frame he).parts .mode hw)
  · exact .inl rfl

@[simp] theorem finishIteration_mode (s : State) : (finishIteration s).mode = s.mode := by
  by_cases h : s.status = .live
  · simp [finishIteration_of_live _ h]
  · simp [finishIteration_of_not_live _ h]

/-- What a step does to the mode: it keeps it, or executes LD Vx, K, or ends a wait on a newly pressed key (R105). -/
theorem step_mode (h : step s = .next t) :
    t.mode = s.mode ∨
      (s.mode = .running ∧ ∃ x, decode s.fetch = .ok (.ldVxK x) ∧ t.mode = .awaitingKey x) ∨
        (s.mode ≠ .running ∧ t.mode = .running ∧ s.input.stop = false ∧
          ∃ k, keyDown s.input.keys k = true ∧ keyDown s.prevKeys k = false) := by
  obtain ⟨_, ⟨_, rfl⟩ | ⟨hstop, ⟨r, hm, rfl⟩ | ⟨hm, ⟨_, rfl⟩ | ⟨_, rfl⟩ | ⟨_, u, hu, rfl⟩⟩⟩⟩ := step_cases h
  case inl => exact .inl rfl
  case inr.inl =>
    cases hk : chosenKey s.input.keys s.prevKeys s.input.keychoice with
    | none => exact .inl (by simp [serveWait])
    | some k =>
      have new := (newlyPressed_iff _ _ k).mp (chosenKey_some hk).1
      exact .inr (.inr ⟨by simp [hm], by simp [serveWait], hstop, k, new⟩)
  case inr.inr.inl => exact .inl rfl
  case inr.inr.inr.inl => exact .inl rfl
  case inr.inr.inr.inr =>
    rw [finishIteration_mode]
    rcases executeWord_mode hu with e | ⟨x, hd, e⟩
    · exact .inl e
    · exact .inr (.inl ⟨hm, x, hd, e⟩)

/-- Settles O12: from Running the mode changes by LD Vx, K alone, from AwaitingKey by the key service alone. -/
theorem waitIsEnteredAndLeftOneWay : Obligations.WaitIsEnteredAndLeftOneWay := by
  intro s t h
  rcases step_mode h with kept | ⟨hm, y, hd, ht⟩ | ⟨hm, left⟩
  · exact ⟨fun x hm ht => by simp [kept, hm] at ht, fun r hm ht => absurd (kept.trans hm) ht⟩
  · refine ⟨fun x _ hx => ?_, fun r hr => by simp [hm] at hr⟩
    obtain rfl : y = x := by simpa [ht] using hx
    exact hd
  · exact ⟨fun x hr => absurd hr hm, fun _ _ _ => left⟩

end Sys2Proof.Machine
end

section
/-!
SUPPORT. What the instructions do to memory, said once: which bytes a store leaves where, that every other instruction
keeps memory as it is, and what a block load reads back (spec/20_memory.md R38 to R43, spec/42_index_memory.md).
-/
namespace Sys2Proof.Machine

variable {i : Instr} {s t : State}

/-! ## Effects -/

/-- An execution that ends Live raised no fault. -/
theorem effect_of_live (h : exec i s = .next t) (ht : t.status = .live) : Effect s i t := by
  rcases exec_next h with ⟨f, rfl⟩ | he
  · cases ht
  · exact he

/-- Only LD B and LD [I], Vx change memory. -/
theorem effect_mem (h : Effect s i t) (hi : storesToMemory i = false) : t.mem = s.mem := by
  cases i with
  | ret => obtain ⟨_, _, rfl⟩ := h; rfl
  | call | skp | sknp | drw => obtain ⟨_, rfl⟩ := h; rfl
  | ldVxMem => obtain ⟨_, rfl⟩ := h; rw [loadRegs_eq]; rfl
  | ldBVx | ldMemVx => cases hi
  | _ => subst h; rfl

theorem exec_mem (h : exec i s = .next t) (hi : storesToMemory i = false) : t.mem = s.mem := by
  rcases exec_next h with ⟨f, rfl⟩ | he
  · rfl
  · exact effect_mem he hi

/-! ## Stores -/

/-- The bytes a store writes from I on (R84, R85); none for an instruction that stores nothing. -/
def storedBytes : Instr → State → List Byte
  | .ldBVx x, s => decimalDigits (s.getV x)
  | .ldMemVx x, s => (regsTo x).map s.getV
  | _, _ => []

/-- A store that raises no fault has its bytes inside the address space, writes them from I on, and advances. -/
theorem effect_store (h : Effect s i t) (hi : storesToMemory i = true) :
    s.i.toNat + (storedBytes i s).length ≤ memSize ∧ t = (s.writeBytes s.i.toNat (storedBytes i s)).advance := by
  cases i with
  | ldBVx x =>
    obtain ⟨hp, rfl⟩ := h
    exact ⟨(pastEnd_eq_false _ _ hp).resolve_left (by simp), rfl⟩
  | ldMemVx x =>
    obtain ⟨hp, rfl⟩ := h
    exact ⟨by simpa [storedBytes] using pastEnd_eq_false _ _ hp, rfl⟩
  | _ => cases hi

theorem effect_memWf (hs : s.memWf) (h : Effect s i t) : t.memWf := by
  cases hi : storesToMemory i
  · have hp := (effect_frame h).params
    rw [State.memWf, hp, effect_mem h hi]
    exact hs
  · obtain ⟨hlen, rfl⟩ := effect_store h hi
    exact State.writeBytes_memWf _ s _ hs hlen

/-- After a store each stored byte reads as stored (R43). -/
theorem effect_readByte_stored (hs : s.memWf) (h : Effect s i t) (hi : storesToMemory i = true) (j : Nat)
    (hj : j < (storedBytes i s).length) : t.readByte (s.i.toNat + j) = (storedBytes i s)[j] := by
  obtain ⟨hlen, rfl⟩ := effect_store h hi
  exact State.readByte_writeBytes_in _ s _ j hs hlen hj

/-- The bytes a store may write are the stored ones. -/
theorem mayWrite_byte (hi : storesToMemory i = true) (a : Nat) :
    mayWrite i s (.byte a) ↔ s.i.toNat ≤ a ∧ a < s.i.toNat + (storedBytes i s).length := by
  cases i with
  | ldBVx => rfl
  | ldMemVx => simp [mayWrite, Part.inBytes, storedBytes]
  | _ => cases hi

/-- A store leaves every byte but the stored ones, and one that faults leaves all (R39). -/
theorem exec_readByte_unstored (hs : s.memWf) (h : exec i s = .next t) (hi : storesToMemory i = true) {a : Nat}
    (ha : ¬ mayWrite i s (.byte a)) : t.readByte a = s.readByte a := by
  rw [mayWrite_byte hi] at ha
  rcases exec_next h with ⟨f, rfl⟩ | he
  · rfl
  · obtain ⟨hlen, rfl⟩ := effect_store he hi
    exact State.readByte_writeBytes_out _ s _ a hs hlen (by omega)

/-- From canonical memory the frame of every instruction is its exact one. -/
theorem exec_frame_of_memWf (hs : s.memWf) (h : exec i s = .next t) : Frame (mayWrite i s) s t := by
  have all := exec_frame h
  refine { all with parts := fun p hp => ?_ }
  by_cases hb : storesToMemory i = true ∧ ∃ a, p = .byte a
  · obtain ⟨hi, a, rfl⟩ := hb
    exact exec_readByte_unstored hs h hi hp
  · exact all.parts p (not_or.mpr ⟨hp, hb⟩)

/-! ## The two stores and the block load, each by its bytes -/

/-- LD [I], Vx leaves V0..Vx from I on (R85). -/
theorem readByte_after_ldMemVx {x k : Reg} (hs : s.memWf) (h : Effect s (.ldMemVx x) t) (hk : k.toNat ≤ x.toNat) :
    t.readByte (s.i.toNat + k.toNat) = s.getV k := by
  rw [effect_readByte_stored hs h rfl k.toNat (by simp [storedBytes]; omega)]
  simp [storedBytes]

/-- LD B, Vx leaves the three digits from I on (R84). -/
theorem readByte_after_ldBVx {x : Reg} (hs : s.memWf) (h : Effect s (.ldBVx x) t) (j : Nat) (hj : j < 3) :
    t.readByte (s.i.toNat + j) = (decimalDigits (s.getV x))[j] :=
  effect_readByte_stored hs h rfl j hj

/-- A block store that raised no fault read I as an operand with a value. -/
theorem iReadable_of_ldMemVx_live {x : Reg} (h : exec (.ldMemVx x) s = .next t) (ht : t.status = .live) :
    s.iReadable = true := by
  cases hi : s.iReadable
  · rw [exec, execLdMemVx, withI_of_unreadable _ hi] at h
    cases h
    cases ht
  · rfl

theorem exec_ldVxMem_of_inRange {x : Reg} (hi : s.iReadable = true) (hp : pastEnd s.i (x.toNat + 1) = false) :
    exec (.ldVxMem x) s = .next (loadRegs 0 (s.readBytes s.i.toNat (x.toNat + 1)) s).advance := by
  simp [exec, execLdVxMem, withI_of_readable _ hi, memRead, hp]

/-- A block load that raises no fault gives each of V0..Vx its byte (R86). -/
theorem getV_after_ldVxMem {x k : Reg} (h : Effect s (.ldVxMem x) t) (hk : k.toNat ≤ x.toNat) :
    t.getV k = s.readByte (s.i.toNat + k.toNat) := by
  obtain ⟨_, rfl⟩ := h
  have := x.isLt
  have loaded := loadRegs_in (s.readBytes s.i.toNat (x.toNat + 1)) 0 k.toNat s (by simp; omega) (by simp; omega)
  simpa using loaded

/-! ## Reset contents -/

variable (rom : Config.GlyphRom)

theorem resetByte_glyph (d : Fin 16) (r : Fin 5) : resetByte rom (16 * d.val + r.val) = rom[d.val][r.val] := by
  have hdiv : (16 * d.val + r.val) / 16 = d.val := by omega
  have hmod : (16 * d.val + r.val) % 16 = r.val := by omega
  rw [resetByte, dif_pos (by omega)]
  simp only [hdiv, hmod]

theorem resetByte_of_no_glyph {a : Nat} (h : ∀ (d : Fin 16) (r : Fin 5), a ≠ 16 * d.val + r.val) :
    resetByte rom a = 0 := by
  refine dif_neg fun ⟨hlt, hrow⟩ => h ⟨a / 16, by omega⟩ ⟨a % 16, hrow⟩ (?_ : a = 16 * (a / 16) + a % 16)
  omega

end Sys2Proof.Machine
end

section
/-!
The statements about memory (spec/20_memory.md R31 to R45): the invariant of the state, who reaches memory, what stores
leave for fetches and loads, the glyphs, and the frame of the index and memory instructions.
-/
namespace Sys2Proof.Machine

variable {i : Instr} {s t : State}

/-! ## The invariant of the state -/

theorem effect_inv (hs : s.inv) (h : Effect s i t) : t.inv := by
  obtain ⟨hmem, hratio, hsub⟩ := hs
  have frame := effect_frame h
  rw [State.inv, frame.params, frame.subtick]
  exact ⟨effect_memWf hmem h, hratio, hsub⟩

/-- Executing a word keeps the invariant and the parameters, whatever the word. -/
theorem executeWord_inv {w : Word} (hs : s.inv) (h : executeWord w s = .next t) : t.inv ∧ t.params = s.params := by
  rcases executeWord_next h with ⟨f, rfl⟩ | ⟨i, _, he⟩ | ⟨_, rfl⟩
  · exact ⟨hs, rfl⟩
  · exact ⟨effect_inv hs he, (effect_frame he).params⟩
  · exact ⟨hs, rfl⟩

/-- The accounting returns the counter to 0 before it reaches TICK_RATIO (R106). -/
theorem accountTick_inv (hs : s.inv) : (accountTick s).inv := by
  obtain ⟨hmem, hratio, hsub⟩ := hs
  refine ⟨by rw [State.memWf, accountTick_params, accountTick_mem]; exact hmem, by simpa using hratio, ?_⟩
  rw [accountTick_subtick, accountTick_params]
  split <;> omega

theorem finishIteration_inv (hs : s.inv) : (finishIteration s).inv ∧ (finishIteration s).params = s.params := by
  by_cases h : s.status = .live
  · rw [finishIteration_of_live s h]
    exact ⟨accountTick_inv hs, accountTick_params s⟩
  · rw [finishIteration_of_not_live s h]
    exact ⟨hs, rfl⟩

theorem serveWait_inv (r : Reg) (k : Option Key) (hs : s.inv) :
    (serveWait r k s).inv ∧ (serveWait r k s).params = s.params := by
  cases k <;> exact ⟨hs, rfl⟩

/-- Settles O24: each of the five ways a step answers keeps the invariant; only executing a word may store, and only
the tick accounting counts. -/
theorem stepKeepsTheStateInvariant : Obligations.StepKeepsTheStateInvariant := by
  intro s t hs h
  obtain ⟨_, ⟨_, rfl⟩ | ⟨_, ⟨r, _, rfl⟩ | ⟨_, ⟨_, rfl⟩ | ⟨_, rfl⟩ | ⟨_, u, hu, rfl⟩⟩⟩⟩ := step_cases h
  case inl => exact ⟨hs, rfl⟩
  case inr.inl =>
    obtain ⟨served, params⟩ := serveWait_inv (s := s.poll) r (chosenKey s.input.keys s.prevKeys s.input.keychoice) hs
    exact ⟨accountTick_inv served, (accountTick_params _).trans params⟩
  case inr.inr.inl => exact ⟨hs, rfl⟩
  case inr.inr.inr.inl => exact ⟨hs, rfl⟩
  case inr.inr.inr.inr =>
    obtain ⟨executed, params⟩ := executeWord_inv (s := s.poll) hs hu
    obtain ⟨finished, params'⟩ := finishIteration_inv executed
    exact ⟨finished, params'.trans params⟩

/-! ## Who reaches memory -/

/-- `s` with another memory. -/
def State.withMem (m : Memory) (s : State) : State := { s with mem := m }

theorem overlay_withMem (m : Memory) : Overlay (State.withMem m) := by
  constructor <;> intros <;> rfl

/-- Every instruction that does not access memory commutes with putting another memory in place (R40). -/
theorem commutes_withMem (m : Memory) (s : State) (hi : reachesMemory i = false) : Commutes (State.withMem m) i s := by
  have hf := overlay_withMem m
  obtain ⟨ret, call⟩ := hf.commutes_of_keepsStack (fun _ => rfl) (fun _ => rfl) (fun _ => rfl) (fun _ _ _ _ => rfl) s
  refine hf.commutes i s ?_ ?_ ?_ (fun h => by simp [hi] at h)
  · rintro rfl
    exact ret
  · rintro nnn rfl
    exact call nnn
  · rintro x rfl
    exact hf.commutes_ldStVx (fun _ _ => rfl) x s

theorem storesToMemory_of_not_reachesMemory (hi : reachesMemory i = false) : storesToMemory i = false := by
  cases i with
  | ldBVx | ldMemVx => cases hi
  | _ => rfl

/-- Settles O22: an instruction outside the four stores nothing, and commutes with the overlay of another memory. -/
theorem onlyFourInstructionsReachMemory : Obligations.OnlyFourInstructionsReachMemory := by
  intro i s t m hdrw hldB hstore hload h
  have hi : reachesMemory i = false := by
    cases i with
    | drw x y n => exact absurd rfl (hdrw x y n)
    | ldBVx x => exact absurd rfl (hldB x)
    | ldMemVx x => exact absurd rfl (hstore x)
    | ldVxMem x => exact absurd rfl (hload x)
    | _ => rfl
  refine ⟨exec_mem h (storesToMemory_of_not_reachesMemory hi), (commutes_withMem m s hi).trans ?_⟩
  rw [h]
  rfl

/-! ## Stores seen by fetches and loads -/

theorem fetch_jump (s : State) (p : Word) :
    (s.jump p).fetch = wordOfBytes (s.readByte p.toNat) (s.readByte (p.toNat + 1)) := rfl

/-- Settles O23: a fetch reads memory alone, and after a store the stored bytes stand there. -/
theorem storesAreSeenByTheNextFetch : Obligations.StoresAreSeenByTheNextFetch := by
  refine ⟨fun x k s t p hs _ h ht hk hp => ?_, fun x s t hs _ h ht => ?_⟩
  · have he := effect_of_live h ht
    have := x.isLt
    have next : (k + 1).toNat = k.toNat + 1 := by rw [BitVec.toNat_add]; simp; omega
    have hi := readByte_after_ldMemVx (k := k) hs he (by omega)
    have lo := readByte_after_ldMemVx (k := k + 1) hs he (by omega)
    rw [next, ← Nat.add_assoc] at lo
    rw [fetch_jump, hp, hi, lo]
  · have he := effect_of_live h ht
    have digit := readByte_after_ldBVx hs he
    have inRange : s.i.toNat + 3 ≤ 4096 := (effect_store he rfl).1
    have next : (s.i + 1).toNat = s.i.toNat + 1 := by rw [BitVec.toNat_add]; simp; omega
    rw [fetch_jump, fetch_jump, next]
    exact ⟨congrArg₂ wordOfBytes (digit 0 (by omega)) (digit 1 (by omega)),
      congrArg₂ wordOfBytes (digit 1 (by omega)) (digit 2 (by omega))⟩

/-- Settles O48: the store leaves I as it was (D9), so the load reads the same addresses, has the same bounds check,
and finds V0..Vx there. -/
theorem storedRegistersLoadBack : Obligations.StoredRegistersLoadBack := by
  intro x s t between u hs _ h ht hmem hparams hi hiw hload k hk
  have he := effect_of_live h ht
  have frame := exec_frame_of_memWf hs h
  obtain ⟨sameI, sameIWritten⟩ : t.i = s.i ∧ t.iWritten = s.iWritten :=
    frame.parts .index (by simp [mayWrite, Part.inBytes])
  have atI : between.i = s.i := hi.trans sameI
  have readable : between.iReadable = true := by
    rw [State.iReadable, hparams, hiw, frame.params, sameIWritten]
    exact iReadable_of_ldMemVx_live h ht
  have inRange : pastEnd between.i (x.toNat + 1) = false := by rw [atI]; exact he.1
  have sameByte (a : Nat) : between.readByte a = t.readByte a := by simp only [State.readByte, hmem, hparams]
  have run := exec_ldVxMem_of_inRange readable inRange
  obtain rfl := Host.Outcome.next.inj (hload.symm.trans run)
  calc
    _ = between.readByte (between.i.toNat + k.toNat) := getV_after_ldVxMem ⟨inRange, rfl⟩ hk
    _ = t.readByte (s.i.toNat + k.toNat) := by rw [sameByte, atI]
    _ = s.getV k := readByte_after_ldMemVx hs he hk

/-! ## The glyphs -/

/-- Settles O28: construction lists no byte, so every byte reads as its reset content. -/
theorem glyphsArePreloadedAtStrideSixteen : Obligations.GlyphsArePreloadedAtStrideSixteen :=
  fun p => ⟨resetByte_glyph p.glyphRom, fun _ _ h => resetByte_of_no_glyph p.glyphRom h⟩

/-! ## The frame of the index and memory instructions -/

/-- Settles O56: with canonical memory a store reaches the stored bytes alone. -/
theorem indexMemoryFrame : Obligations.IndexMemoryFrame := fun _ _ _ hs _ h => exec_frame_of_memWf hs h

end Sys2Proof.Machine
end

section
/-!
The statements about the encoding (spec/30_encoding.md R46 to R54): the round trip of the decoder and the encoder, the
opcode table, and the words that no row matches.
-/
namespace Sys2Proof

/-! ## Encode, then decode (R47, R49, R54) -/

/-- The decoder reads back every encoded instruction, family by family: the family nibble selects the branch, the low
nibble or the low byte the instruction, and the fields are the operands. -/
theorem decode_encode (i : Instr) : decode (encode i) = .ok i := by
  cases i with
  | cls | ret => rfl
  | jp | call | ldINnn | jpV0 => simp [encode, decode]
  | seVxKk | sneVxKk | ldVxKk | addVxKk | rnd | drw => simp [encode, decode]
  | seVxVy | sneVxVy => simp [encode, decode, decodeExactLow]
  | ldVxVy | orVxVy | andVxVy | xorVxVy | addVxVy | subVxVy | shr | subn | shl => simp [encode, decode, decodeFamily8]
  | skp | sknp => simp [encode, decode, decodeFamilyE]
  | ldVxDt | ldVxK | ldDtVx | ldStVx | addIVx | ldFVx | ldBVx | ldMemVx | ldVxMem =>
    simp [encode, decode, decodeFamilyF]

/-- Settles O1, by the round trip of each instruction. -/
theorem decodeOfEncode : Obligations.DecodeOfEncode := fun i _ => decode_encode i

/-- Settles O5: six of the words are their instructions' encodings, and 5121 has a low nibble other than 0 (D11). -/
theorem writtenOutWordsDecode : Obligations.WrittenOutWordsDecode :=
  ⟨decode_encode .cls, decode_encode (.call 0x300), decode_encode (.addVxVy 0x0 0x1), decode_encode (.drw 0x1 0x2 0x5),
    decode_encode (.skp 0x1), decode_encode (.ldMemVx 0x2), rfl⟩

/-! ## Decode, then encode -/

variable {w : Word} {op n : Nib} {kk : Byte}

/-! ### A word from its fields, the fixed ones as their values -/

theorem wordNnn_of_op (hop : fieldOp w = op) : wordNnn op (fieldNnn w) = w := hop ▸ wordNnn_fields w
theorem wordXkk_of_op (hop : fieldOp w = op) : wordXkk op (fieldX w) (fieldKk w) = w := hop ▸ wordXkk_fields w
theorem wordXkk_of_op_kk (hop : fieldOp w = op) (hkk : fieldKk w = kk) : wordXkk op (fieldX w) kk = w :=
  hkk ▸ wordXkk_of_op hop
theorem wordXyn_of_op (hop : fieldOp w = op) : wordXyn op (fieldX w) (fieldY w) (fieldN w) = w :=
  hop ▸ wordXyn_fields w
theorem wordXyn_of_op_n (hop : fieldOp w = op) (hn : fieldN w = n) : wordXyn op (fieldX w) (fieldY w) n = w :=
  hn ▸ wordXyn_of_op hop

/-! ### The selectors, as numbers -/

theorem div_of_fieldOp (h : fieldOp w = op) : w.toNat / 4096 = op.toNat := by
  rw [← h, fieldOp_toNat]
  omega

theorem fieldN_eq_iff : fieldN w = n ↔ w.toNat % 16 = n.toNat := by rw [← BitVec.toNat_inj, fieldN_toNat]

theorem fieldKk_eq_iff : fieldKk w = kk ↔ w.toNat % 256 = kk.toNat := by rw [← BitVec.toNat_inj, fieldKk_toNat]

/-! ### The decoder's answers -/

/-- A decoder's answer to `w`, where `p` says that no row matches `w`: without `p` an instruction that encodes to `w`,
with `p` UNRECOGNISED and the word itself. -/
def AnswersWord (w : Word) (p : Prop) : Except DecodeError Instr → Prop
  | .ok i => encode i = w ∧ ¬p
  | .error e => e = .unrecognised w ∧ p

theorem AnswersWord.congr {p q : Prop} {a : Except DecodeError Instr} (h : AnswersWord w p a) (hpq : p ↔ q) :
    AnswersWord w q a := propext hpq ▸ h

theorem decodeFamily0_answers : AnswersWord w (w.toNat ≠ 0x00E0 ∧ w.toNat ≠ 0x00EE) (decodeFamily0 w) := by
  unfold decodeFamily0
  split_ifs with hcls hret
  · exact ⟨hcls.symm, by simp [hcls]⟩
  · exact ⟨hret.symm, by simp [hret]⟩
  · exact ⟨rfl, by simpa [← BitVec.toNat_inj] using And.intro hcls hret⟩

theorem decodeExactLow_answers {i : Instr} (hi : fieldN w = 0 → encode i = w) :
    AnswersWord w (w.toNat % 16 ≠ 0) (decodeExactLow w i) := by
  unfold decodeExactLow
  split_ifs with hn
  · exact ⟨hi hn, by simpa using fieldN_eq_iff.1 hn⟩
  · exact ⟨rfl, by simpa [fieldN_eq_iff] using hn⟩

theorem decodeFamily8_answers (hop : fieldOp w = 0x8) :
    AnswersWord w (w.toNat % 16 ∈ [0x8, 0x9, 0xA, 0xB, 0xC, 0xD, 0xF]) (decodeFamily8 w) := by
  unfold decodeFamily8
  split
  case h_10 =>
    refine ⟨rfl, ?_⟩
    simp [fieldN_eq_iff] at *
    omega
  all_goals
    rename_i hn
    exact ⟨wordXyn_of_op_n hop hn, by simp [fieldN_eq_iff.1 hn]⟩

theorem decodeFamilyE_answers (hop : fieldOp w = 0xE) :
    AnswersWord w (w.toNat % 256 ∉ [0x9E, 0xA1]) (decodeFamilyE w) := by
  unfold decodeFamilyE
  split
  case h_3 => exact ⟨rfl, by simp_all [fieldKk_eq_iff]⟩
  all_goals
    rename_i hkk
    exact ⟨wordXkk_of_op_kk hop hkk, by simp [fieldKk_eq_iff.1 hkk]⟩

theorem decodeFamilyF_answers (hop : fieldOp w = 0xF) :
    AnswersWord w (w.toNat % 256 ∉ [0x07, 0x0A, 0x15, 0x18, 0x1E, 0x29, 0x33, 0x55, 0x65]) (decodeFamilyF w) := by
  unfold decodeFamilyF
  split
  case h_10 => exact ⟨rfl, by simp_all [fieldKk_eq_iff]⟩
  all_goals
    rename_i hkk
    exact ⟨wordXkk_of_op_kk hop hkk, by simp [fieldKk_eq_iff.1 hkk]⟩

/-- The words that R51 lists. -/
def ListedUnrecognised (w : Word) : Prop :=
  (w.toNat / 4096 = 0x0 ∧ w.toNat ≠ 0x00E0 ∧ w.toNat ≠ 0x00EE) ∨
  ((w.toNat / 4096 = 0x5 ∨ w.toNat / 4096 = 0x9) ∧ w.toNat % 16 ≠ 0) ∨
  (w.toNat / 4096 = 0x8 ∧ w.toNat % 16 ∈ [0x8, 0x9, 0xA, 0xB, 0xC, 0xD, 0xF]) ∨
  (w.toNat / 4096 = 0xE ∧ w.toNat % 256 ∉ [0x9E, 0xA1]) ∨
  (w.toNat / 4096 = 0xF ∧ w.toNat % 256 ∉ [0x07, 0x0A, 0x15, 0x18, 0x1E, 0x29, 0x33, 0x55, 0x65])

/-- What the decoder can answer, said once for every word (R49, R51). -/
theorem decode_answers (w : Word) : AnswersWord w (ListedUnrecognised w) (decode w) := by
  unfold decode
  split <;> rename_i hop
  case h_1 => exact decodeFamily0_answers.congr (by simp [ListedUnrecognised, div_of_fieldOp hop])
  case h_2 | h_3 | h_11 | h_12 => exact ⟨wordNnn_of_op hop, by simp [ListedUnrecognised, div_of_fieldOp hop]⟩
  case h_4 | h_5 | h_7 | h_8 | h_13 => exact ⟨wordXkk_of_op hop, by simp [ListedUnrecognised, div_of_fieldOp hop]⟩
  case h_14 => exact ⟨wordXyn_of_op hop, by simp [ListedUnrecognised, div_of_fieldOp hop]⟩
  case h_6 | h_10 =>
    exact (decodeExactLow_answers (wordXyn_of_op_n hop)).congr (by simp [ListedUnrecognised, div_of_fieldOp hop])
  case h_9 => exact (decodeFamily8_answers hop).congr (by simp [ListedUnrecognised, div_of_fieldOp hop])
  case h_15 => exact (decodeFamilyE_answers hop).congr (by simp [ListedUnrecognised, div_of_fieldOp hop])
  case h_16 => exact (decodeFamilyF_answers hop).congr (by simp [ListedUnrecognised, div_of_fieldOp hop])
  case h_17 =>
    have := (fieldOp w).isLt
    simp [← BitVec.toNat_inj] at *
    omega

/-- A word is read as an instruction exactly when it is that instruction's encoding. -/
theorem decode_ok_iff {i : Instr} : decode w = .ok i ↔ encode i = w := by
  refine ⟨fun h => ?_, fun h => h ▸ decode_encode i⟩
  have answer := decode_answers w
  rw [h] at answer
  exact answer.1

/-- Settles O3: what the decoder can answer, read in both directions. -/
theorem unrecognisedWordsAreThoseListed : Obligations.UnrecognisedWordsAreThoseListed := by
  intro w
  change _ ∧ (_ ↔ ListedUnrecognised w)
  have answer := decode_answers w
  cases hw : decode w with
  | ok i =>
    rw [hw] at answer
    exact ⟨.inl ⟨i, rfl⟩, by simp [answer.2]⟩
  | error e =>
    rw [hw] at answer
    obtain ⟨rfl, listed⟩ := answer
    exact ⟨.inr rfl, by simp [listed]⟩

/-! ## The opcode table (R49, R50) -/

section
open Laws.EncodesItsRow

/-- The encoding of every instruction has its row's fixed bits. -/
theorem matchesRow_encode (i : Instr) : matchesRow (encode i) i = true := by
  cases i
  exacts [cls.2, ret.2, (jp _).2, (call _).2, (seVxKk _ _).2, (sneVxKk _ _).2, (seVxVy _ _).2, (ldVxKk _ _).2,
    (addVxKk _ _).2, (ldVxVy _ _).2, (orVxVy _ _).2, (andVxVy _ _).2, (xorVxVy _ _).2, (addVxVy _ _).2,
    (subVxVy _ _).2, (shr _ _).2, (subn _ _).2, (shl _ _).2, (sneVxVy _ _).2, (ldINnn _).2, (jpV0 _).2, (rnd _ _).2,
    (drw _ _ _).2, (skp _).2, (sknp _).2, (ldVxDt _).2, (ldVxK _).2, (ldDtVx _).2, (ldStVx _).2, (addIVx _).2,
    (ldFVx _).2, (ldBVx _).2, (ldMemVx _).2, (ldVxMem _).2]

end

/-! A word whose masked bits are a row's match word has that row's fixed fields. -/

theorem fieldOp_of_and_op (h : w &&& 0xF000#16 = wordNnn op 0) : fieldOp w = op := by
  simpa [and_mask_op] using congrArg fieldOp h

theorem wordXyn_of_and (h : w &&& 0xF00F#16 = wordXyn op 0 0 n) : wordXyn op (fieldX w) (fieldY w) n = w := by
  rw [and_mask_op_n] at h
  exact wordXyn_of_op_n (by simpa using congrArg fieldOp h) (by simpa using congrArg fieldN h)

theorem wordXkk_of_and (h : w &&& 0xF0FF#16 = wordXkk op 0 kk) : wordXkk op (fieldX w) kk = w := by
  rw [and_mask_op_kk] at h
  exact wordXkk_of_op_kk (by simpa using congrArg fieldOp h) (by simpa using congrArg fieldKk h)

/-- A word that matches a row is the encoding of an instruction of that row, the one with the word's own fields. -/
theorem exists_encode_of_matchesRow {i : Instr} (h : matchesRow w i = true) :
    ∃ j, encode j = w ∧ tableRow j = tableRow i := by
  have h := eq_of_beq h
  cases i with
  | cls => exact ⟨.cls, h.symm.trans BitVec.and_allOnes, rfl⟩
  | ret => exact ⟨.ret, h.symm.trans BitVec.and_allOnes, rfl⟩
  | jp => exact ⟨.jp _, wordNnn_of_op (fieldOp_of_and_op h), rfl⟩
  | call => exact ⟨.call _, wordNnn_of_op (fieldOp_of_and_op h), rfl⟩
  | ldINnn => exact ⟨.ldINnn _, wordNnn_of_op (fieldOp_of_and_op h), rfl⟩
  | jpV0 => exact ⟨.jpV0 _, wordNnn_of_op (fieldOp_of_and_op h), rfl⟩
  | seVxKk => exact ⟨.seVxKk _ _, wordXkk_of_op (fieldOp_of_and_op h), rfl⟩
  | sneVxKk => exact ⟨.sneVxKk _ _, wordXkk_of_op (fieldOp_of_and_op h), rfl⟩
  | ldVxKk => exact ⟨.ldVxKk _ _, wordXkk_of_op (fieldOp_of_and_op h), rfl⟩
  | addVxKk => exact ⟨.addVxKk _ _, wordXkk_of_op (fieldOp_of_and_op h), rfl⟩
  | rnd => exact ⟨.rnd _ _, wordXkk_of_op (fieldOp_of_and_op h), rfl⟩
  | drw => exact ⟨.drw _ _ _, wordXyn_of_op (fieldOp_of_and_op h), rfl⟩
  | seVxVy => exact ⟨.seVxVy _ _, wordXyn_of_and h, rfl⟩
  | ldVxVy => exact ⟨.ldVxVy _ _, wordXyn_of_and h, rfl⟩
  | orVxVy => exact ⟨.orVxVy _ _, wordXyn_of_and h, rfl⟩
  | andVxVy => exact ⟨.andVxVy _ _, wordXyn_of_and h, rfl⟩
  | xorVxVy => exact ⟨.xorVxVy _ _, wordXyn_of_and h, rfl⟩
  | addVxVy => exact ⟨.addVxVy _ _, wordXyn_of_and h, rfl⟩
  | subVxVy => exact ⟨.subVxVy _ _, wordXyn_of_and h, rfl⟩
  | shr => exact ⟨.shr _ _, wordXyn_of_and h, rfl⟩
  | subn => exact ⟨.subn _ _, wordXyn_of_and h, rfl⟩
  | shl => exact ⟨.shl _ _, wordXyn_of_and h, rfl⟩
  | sneVxVy => exact ⟨.sneVxVy _ _, wordXyn_of_and h, rfl⟩
  | skp => exact ⟨.skp _, wordXkk_of_and h, rfl⟩
  | sknp => exact ⟨.sknp _, wordXkk_of_and h, rfl⟩
  | ldVxDt => exact ⟨.ldVxDt _, wordXkk_of_and h, rfl⟩
  | ldVxK => exact ⟨.ldVxK _, wordXkk_of_and h, rfl⟩
  | ldDtVx => exact ⟨.ldDtVx _, wordXkk_of_and h, rfl⟩
  | ldStVx => exact ⟨.ldStVx _, wordXkk_of_and h, rfl⟩
  | addIVx => exact ⟨.addIVx _, wordXkk_of_and h, rfl⟩
  | ldFVx => exact ⟨.ldFVx _, wordXkk_of_and h, rfl⟩
  | ldBVx => exact ⟨.ldBVx _, wordXkk_of_and h, rfl⟩
  | ldMemVx => exact ⟨.ldMemVx _, wordXkk_of_and h, rfl⟩
  | ldVxMem => exact ⟨.ldVxMem _, wordXkk_of_and h, rfl⟩

/-- Settles O2: a recognised word is its instruction's encoding and so matches its row; a word that matches a row is an
encoding of that row, which the decoder reads back. -/
theorem decodeFollowsTheOpcodeTable : Obligations.DecodeFollowsTheOpcodeTable := by
  refine ⟨fun w i h => ?_, fun w i h => ?_⟩
  · have encoded := decode_ok_iff.1 h
    exact ⟨encoded ▸ matchesRow_encode i, encoded⟩
  · obtain ⟨j, encoded, row⟩ := exists_encode_of_matchesRow h
    exact ⟨j, decode_ok_iff.2 encoded, row⟩

/-! ## The field extractor (R47, R48) -/

/-- Settles O4: masking the low nibbles is the remainder by a power of 16, and shifting by nibbles the quotient. -/
theorem fieldIsMaskedShiftedValue : Obligations.FieldIsMaskedShiftedValue := by
  intro w
  refine ⟨fun count offset _ _ _ => ?_, (div_of_fieldOp rfl).symm, fieldX_toNat w, fieldY_toNat w, fieldN_toNat w,
    fieldKk_toNat w, fieldNnn_toNat w⟩
  rw [field_toNat, ← Nat.and_two_pow_sub_one_eq_mod, Nat.pow_mul]

end Sys2Proof
end

section
/-!
The statements about control flow (spec/40_flow_stack.md R59, R61 to R64): JP and the register skips.
-/
namespace Sys2Proof.Machine

variable {i : Instr} {s : State} {x y : Reg}

/-! ## Instructions that begin by reading register operands (R29, R113) -/

/-- An instruction whose next read is of a register operand without a value raises UninitialisedRead for it. -/
theorem raisesUninitialised_of_withV {k : Byte → Result} (operand : .v x ∈ operandsOf i)
    (unwritten : s.vReadable x = false) (run : exec i s = withV x s k) : raisesUninitialised i s :=
  ⟨.v x, operand, unwritten, run.trans (withV_of_unreadable k unwritten)⟩

/-- An instruction with the one operand V[x] goes on with its value, or raises UninitialisedRead. -/
theorem exec_of_withV {k : Byte → Result} (operands : operandsOf i = [.v x]) (run : exec i s = withV x s k) :
    (s.readsOk i → exec i s = k (s.getV x)) ∧ (¬ s.readsOk i → raisesUninitialised i s) := by
  have readsOk_iff : s.readsOk i ↔ s.vReadable x = true := by
    simp [State.readsOk, operands, State.hasValue]
  rw [readsOk_iff, Bool.not_eq_true]
  exact ⟨fun hx => run.trans (withV_of_readable k hx),
    fun hx => raisesUninitialised_of_withV (by simp [operands]) hx run⟩

/-- An instruction with the operands V[x] and V[y] goes on with both values, or raises UninitialisedRead for the first
of them that has none. -/
theorem exec_of_withV_withV {k : Byte → Byte → Result} (operands : operandsOf i = [.v x, .v y])
    (run : exec i s = withV x s fun p => withV y s (k p)) :
    (s.readsOk i → exec i s = k (s.getV x) (s.getV y)) ∧ (¬ s.readsOk i → raisesUninitialised i s) := by
  have readsOk_iff : s.readsOk i ↔ s.vReadable x = true ∧ s.vReadable y = true := by
    simp [State.readsOk, operands, State.hasValue]
  rw [readsOk_iff]
  cases hx : s.vReadable x with
  | false => exact ⟨by simp, fun _ => raisesUninitialised_of_withV (by simp [operands]) hx run⟩
  | true =>
    have runY : exec i s = withV y s (k (s.getV x)) := run.trans (withV_of_readable _ hx)
    exact ⟨fun h => runY.trans (withV_of_readable _ h.2),
      fun h => raisesUninitialised_of_withV (by simp [operands]) (by simpa using h) runY⟩

/-! ## Transfers of control (R56) -/

/-- Widening an address field keeps its value. -/
@[simp] theorem addrWord_toNat (nnn : Addr12) : (addrWord nnn).toNat = nnn.toNat :=
  BitVec.toNat_setWidth_of_le (by decide)

/-- A skip on equality of two bytes goes to a + 4 when they are the same number. -/
theorem skipIf_beq (s : State) (p q : Byte) :
    s.skipIf (p == q) = { s with pc := if p.toNat = q.toNat then s.pc + 4 else s.pc + 2 } := by
  simp [State.skipIf, BitVec.toNat_inj]

/-- A skip on inequality of two bytes goes to a + 2 when they are the same number. -/
theorem skipIf_bne (s : State) (p q : Byte) :
    s.skipIf (p != q) = { s with pc := if p.toNat = q.toNat then s.pc + 2 else s.pc + 4 } := by
  simp [State.skipIf, BitVec.toNat_inj]

/-- Settles O36: each skip reads its operands and then tests their values, so either the test decides between a + 4
and a + 2 or the first operand without a value is reported. -/
theorem skipsAdvanceByFourOrTwo : Obligations.SkipsAdvanceByFourOrTwo := by
  intro x y kk s
  obtain ⟨seKk, seKkFault⟩ := exec_of_withV (i := .seVxKk x kk) (s := s)
    (k := fun p => .next (s.skipIf (p == kk))) rfl rfl
  obtain ⟨sneKk, sneKkFault⟩ := exec_of_withV (i := .sneVxKk x kk) (s := s)
    (k := fun p => .next (s.skipIf (p != kk))) rfl rfl
  obtain ⟨seVy, seVyFault⟩ := exec_of_withV_withV (i := .seVxVy x y) (s := s)
    (k := fun p q => .next (s.skipIf (p == q))) rfl rfl
  obtain ⟨sneVy, sneVyFault⟩ := exec_of_withV_withV (i := .sneVxVy x y) (s := s)
    (k := fun p q => .next (s.skipIf (p != q))) rfl rfl
  simp only [skipIf_beq, skipIf_bne] at seKk sneKk seVy sneVy
  refine ⟨seKk, sneKk, seVy, sneVy, ?_⟩
  simp only [List.forall_mem_cons]
  exact ⟨seKkFault, sneKkFault, seVyFault, sneVyFault, by simp⟩

/-- Settles O30: the next state is the jump itself. -/
theorem jumpSetsPcExactly : Obligations.JumpSetsPcExactly :=
  fun nnn s => ⟨s.jump (addrWord nnn), rfl, rfl, addrWord_toNat nnn⟩

end Sys2Proof.Machine
end

section
/-!
The statements about the register loads and the ALU (spec/41_alu.md R68 to R75, R77): one rule per shape of write, and
the value of each flag and difference as numbers.
-/
namespace Sys2Proof.Machine

variable {s : State} {x y r : Reg} {b : Byte} {c : Bool}

/-! ## The two shapes of register write -/

/-- A write of V[x] alone leaves every other register, VF among them. -/
theorem getV_setV_advance_of_ne (h : r ≠ x) : (s.setV x b).advance.getV r = s.getV r := by simp [h]

/-- After a result and a flag, VF holds the flag, and V[x] the result where the flag did not overwrite it (R67). -/
theorem writeVFlag_answers {o : Result} {flag : Byte} {value : Nat} (run : o = writeVFlag x b c s)
    (hflag : flagByte c = flag) (hvalue : b.toNat = value) :
    ∃ t, o = .next t ∧ t.status = s.status ∧ t.pc = s.pc + 2 ∧ t.getV 0xF = flag ∧
      (x ≠ 0xF → (t.getV x).toNat = value) := by
  refine ⟨_, run, rfl, rfl, ?_, fun (hx : x ≠ regF) => ?_⟩
  · simp [State.setFlag_eq, hflag]
  · simp [State.setFlag_eq, hx, hvalue]

/-! ## Flags and differences as numbers -/

/-- The flag of ADD (R74). -/
theorem flagByte_carryOf (p q : Byte) : flagByte (carryOf p q) = if 256 ≤ p.toNat + q.toNat then 1 else 0 := by
  simp [flagByte_eq, carryOf]

/-- The flag of SUB and SUBN (R75, R77). -/
theorem flagByte_noBorrow (p q : Byte) : flagByte (noBorrow p q) = if p.toNat < q.toNat then 0 else 1 := by
  simp only [flagByte_eq, noBorrow, decide_eq_true_eq, ← Nat.not_lt, ite_not]

/-- A difference of bytes, modulo 256 (R66). -/
theorem byte_toNat_sub (p q : Byte) : (p - q).toNat = (p.toNat + 256 - q.toNat) % 256 := by
  have := q.isLt
  rw [BitVec.toNat_sub, Nat.add_comm, Nat.add_sub_assoc (by omega)]

/-! ## The statements -/

/-- Settles O40: VF is written last and so ends as the carry, and V[x] keeps the sum unless it is VF. -/
theorem addSetsTheCarry : Obligations.AddSetsTheCarry := by
  intro x y s
  obtain ⟨add, fault⟩ := exec_of_withV_withV (i := .addVxVy x y) (s := s)
    (k := fun p q => writeVFlag x (p + q) (carryOf p q) s) rfl rfl
  exact ⟨fun h => writeVFlag_answers (add h) (flagByte_carryOf _ _) (BitVec.toNat_add _ _), fault⟩

/-- Settles O41: as for ADD, with the difference and its borrow; SUBN takes the operands the other way round. -/
theorem subtractSetsTheBorrow : Obligations.SubtractSetsTheBorrow := by
  intro x y s
  obtain ⟨sub, subFault⟩ := exec_of_withV_withV (i := .subVxVy x y) (s := s)
    (k := fun p q => writeVFlag x (p - q) (noBorrow p q) s) rfl rfl
  obtain ⟨subn, subnFault⟩ := exec_of_withV_withV (i := .subn x y) (s := s)
    (k := fun p q => writeVFlag x (q - p) (noBorrow q p) s) rfl rfl
  refine ⟨fun h => writeVFlag_answers (sub h) (flagByte_noBorrow _ _) (byte_toNat_sub _ _),
    fun h => writeVFlag_answers (subn h) (flagByte_noBorrow _ _) (byte_toNat_sub _ _), ?_⟩
  simp only [List.forall_mem_cons]
  exact ⟨subFault, subnFault, by simp⟩

/-- Settles O39: each of the three reads both operands and writes V[x] alone, and a bit of its result is that
operation on the operands' bits. -/
theorem bitwiseOperations : Obligations.BitwiseOperations := by
  intro x y s
  obtain ⟨or, orFault⟩ := exec_of_withV_withV (i := .orVxVy x y) (s := s)
    (k := fun p q => writeV x (p ||| q) s) rfl rfl
  obtain ⟨and, andFault⟩ := exec_of_withV_withV (i := .andVxVy x y) (s := s)
    (k := fun p q => writeV x (p &&& q) s) rfl rfl
  obtain ⟨xor, xorFault⟩ := exec_of_withV_withV (i := .xorVxVy x y) (s := s)
    (k := fun p q => writeV x (p ^^^ q) s) rfl rfl
  refine ⟨fun h => ⟨_, or h, rfl, rfl, fun b => by simp, fun _ => getV_setV_advance_of_ne⟩,
    fun h => ⟨_, and h, rfl, rfl, fun b => by simp, fun _ => getV_setV_advance_of_ne⟩,
    fun h => ⟨_, xor h, rfl, rfl, fun b => by simp, fun _ => getV_setV_advance_of_ne⟩, ?_⟩
  simp only [List.forall_mem_cons]
  exact ⟨orFault, andFault, xorFault, by simp⟩

/-- Settles O37: LD Vx, kk reads no register, LD Vx, Vy reads V[y] first, and both then write V[x] alone. -/
theorem registerLoads : Obligations.RegisterLoads := by
  intro x y kk s
  obtain ⟨load, fault⟩ := exec_of_withV (i := .ldVxVy x y) (s := s) (k := fun q => writeV x q s) rfl rfl
  exact ⟨⟨_, rfl, rfl, rfl, by simp, fun _ => getV_setV_advance_of_ne⟩,
    fun h => ⟨_, load h, rfl, rfl, by simp, fun _ => getV_setV_advance_of_ne⟩, fault⟩

/-- Settles O38: the sum of the bytes is the sum of the numbers modulo 256, and V[x] alone is written. -/
theorem addImmediateWrapsWithoutFlag : Obligations.AddImmediateWrapsWithoutFlag := by
  intro x kk s
  obtain ⟨add, fault⟩ := exec_of_withV (i := .addVxKk x kk) (s := s) (k := fun p => writeV x (p + kk) s) rfl rfl
  exact ⟨fun h => ⟨_, add h, rfl, rfl, by simp, fun _ => getV_setV_advance_of_ne⟩, fault⟩

end Sys2Proof.Machine
end

section
/-!
The statements about the index register (spec/42_index_memory.md R81 to R83): LD I, ADD I and LD F.
-/
namespace Sys2Proof.Machine

variable {s : State} {x : Reg}

/-- Widening a register's byte keeps its value. -/
@[simp] theorem byteWord_toNat (b : Byte) : (byteWord b).toNat = b.toNat :=
  BitVec.toNat_setWidth_of_le (by decide)

/-- Sixteen times a byte is below 4096, so the product does not wrap (R83, D35). -/
theorem sixteen_mul_byteWord_toNat (b : Byte) : (16 * byteWord b).toNat = 16 * b.toNat := by
  have := b.isLt
  rw [BitVec.toNat_mul, byteWord_toNat]
  exact Nat.mod_eq_of_lt (show 16 * b.toNat < 65536 by omega)

/-- ADD I, Vx with a value in both its operands. -/
theorem exec_addIVx_of_readsOk (h : s.readsOk (.addIVx x)) :
    exec (.addIVx x) s = .next (s.setI (s.i + byteWord (s.getV x))).advance := by
  have hi : s.iReadable = true := h .i (by simp [operandsOf])
  have hx : s.vReadable x = true := h (.v x) (by simp [operandsOf])
  rw [exec, execAddIVx, withI_of_readable _ hi, withV_of_readable _ hx]

/-- Settles O44: each of the three writes I alone, so VF is kept; the sum of words is the sum of the numbers modulo
65536 (D7), and 16 * V[x] always fits (D35). -/
theorem indexRegisterWrites : Obligations.IndexRegisterWrites := by
  intro nnn x s
  have loadGlyph := (exec_of_withV (i := .ldFVx x) (s := s)
    (k := fun p => .next (s.setI (16 * byteWord p)).advance) rfl rfl).1
  refine ⟨⟨_, rfl, rfl, rfl, addrWord_toNat nnn⟩, fun h => ⟨_, exec_addIVx_of_readsOk h, rfl, rfl, ?_, by simp⟩,
    fun h => ⟨_, loadGlyph h, rfl, rfl, sixteen_mul_byteWord_toNat _⟩⟩
  simp [BitVec.toNat_add]

end Sys2Proof.Machine
end

section
/-!
The statement about clearing the display (spec/43_display.md R88).
-/
namespace Sys2Proof.Machine

/-- CLS reads no operand, so it answers the same way in every state: it emits Clear and advances. -/
theorem exec_cls (s : State) : exec .cls s = .next (s.emit .clear).advance := rfl

/-- Settles O49: emitting appends to the events alone and the advance adds 2 to pc alone. -/
theorem clearEmitsOneEvent : Obligations.ClearEmitsOneEvent := by
  intro s
  rw [exec_cls, State.emit, State.advance]

end Sys2Proof.Machine
end

section
/-!
The statement about the timers (spec/44_keypad_timer.md R94, R96, R97): reading DT, and setting DT and ST.
-/
namespace Sys2Proof.Machine

/-- Settles O52: LD Vx, DT reads no register and writes V[x] alone; the two setters read V[x] first, so they either set
their timer and advance or report V[x]. -/
theorem timersAreReadAndSet : Obligations.TimersAreReadAndSet := by
  intro x s
  obtain ⟨setDt, setDtFault⟩ := exec_of_withV (i := .ldDtVx x) (s := s)
    (k := fun p => .next (s.setDt p).advance) rfl rfl
  obtain ⟨setSt, setStFault⟩ := exec_of_withV (i := .ldStVx x) (s := s)
    (k := fun p => .next (s.setSt p).advance) rfl rfl
  refine ⟨⟨_, rfl, rfl, rfl, rfl, by simp, fun _ => getV_setV_advance_of_ne⟩, setDt, setSt, ?_⟩
  simp only [List.forall_mem_cons]
  exact ⟨setDtFault, setStFault, by simp⟩

end Sys2Proof.Machine
end

section
/-!
The statements about faults, the iteration and the key wait (spec/60_exceptions.md R100, R104, R109, R118).
-/
namespace Sys2Proof.Machine

variable {i : Instr} {s t u : State} {w : Word} {r q : Reg}

/-! ## Faults -/

/-- An instruction executed at a Live state leaves it Live or raises a fault, which changes the status alone. -/
theorem exec_raised (hs : s.status = .live) (h : exec i s = .next t) (ht : t.status ≠ .live) :
    ∃ f, t = s.setStatus (.faulted f) := by
  rcases exec_next h with raised | he
  · exact raised
  · exact absurd ((effect_status he).trans hs) ht

/-- The same of a word: an UNRECOGNISED one raises no fault (R52). -/
theorem executeWord_raised (hs : s.status = .live) (h : executeWord w s = .next t) (ht : t.status ≠ .live) :
    ∃ f, t = s.setStatus (.faulted f) := by
  rcases executeWord_next h with raised | ⟨_, _, he⟩ | ⟨_, rfl⟩
  · exact raised
  · exact absurd ((effect_status he).trans hs) ht
  · exact absurd hs ht

/-- The end of an iteration leaves the status its word left. -/
@[simp] theorem finishIteration_status (s : State) : (finishIteration s).status = s.status := by
  by_cases h : s.status = .live
  · simp [finishIteration_of_live _ h]
  · simp [finishIteration_of_not_live _ h]

/-- A step that ends Faulted polled the keys and raised the fault, and nothing else but its input record shows. -/
theorem step_faulted {f : FaultCode} (h : step s = .next t) (ht : t.status = .faulted f) :
    t = (s.poll.setStatus (.faulted f)).nextInput := by
  obtain ⟨hlive, ⟨_, rfl⟩ | ⟨_, ⟨r, _, rfl⟩ | ⟨_, ⟨_, rfl⟩ | ⟨_, rfl⟩ | ⟨_, u, hu, rfl⟩⟩⟩⟩ := step_cases h
  case inl => cases ht
  case inr.inl =>
    cases hk : chosenKey s.input.keys s.prevKeys s.input.keychoice <;> simp [hk, serveWait, hlive] at ht
  case inr.inr.inl => cases ht
  case inr.inr.inr.inl => cases ht; rfl
  case inr.inr.inr.inr =>
    have hf : u.status = .faulted f := by rwa [finishIteration_status] at ht
    have hne : u.status ≠ .live := by simp [hf]
    obtain ⟨g, rfl⟩ := executeWord_raised (s := s.poll) hlive hu hne
    cases hf
    exact finishIteration_of_not_live _ hne

/-- Settles O16: what raises a fault changes the status alone, and the iteration then ends without the accounting. -/
theorem faultsArePrecise : Obligations.FaultsArePrecise :=
  ⟨fun _ _ _ => exec_raised, fun _ _ _ => step_faulted⟩

/-- Settles O18: an instruction raises a fault or has its own effect, which leaves the status. -/
theorem everyInstructionAnswersANextState : Obligations.EveryInstructionAnswersANextState := by
  intro i s
  rcases exec_answers i s with ⟨f, raised⟩ | ⟨t, answered, he⟩
  · exact ⟨_, raised, .inr ⟨f, rfl⟩⟩
  · exact ⟨t, answered, .inl (effect_status he)⟩

/-! ## The iteration -/

theorem executeWord_of_decode (h : decode w = .ok i) : executeWord w s = exec i s := by
  rw [executeWord, h]

/-- Where the run loop fetches, the step is the poll, the word fetched, and the end of the iteration. -/
theorem step_of_fetches (hs : s.fetches) (hu : executeWord s.fetch s.poll = .next u) :
    step s = .next (finishIteration u) := by
  obtain ⟨hlive, hmode, hstop, hpc⟩ := hs
  simp only [step, runLoopStep, iterate, hlive, hmode, hstop]
  exact runningIteration_of_fetch s.poll hpc hu

/-- Settles O6: the fetch is the big-endian word at pc, and the step of a recognised word is `exec` at the polled
state, with the tick accounting exactly when no fault was raised. -/
theorem stepRunsTheDecodedInstruction : Obligations.StepRunsTheDecodedInstruction := by
  refine ⟨fun s => wordOfBytes_toNat _ _, fun s u i hs hd hu => ?_⟩
  have stepped := step_of_fetches hs ((executeWord_of_decode hd).trans hu)
  exact ⟨fun live => finishIteration_of_live u live ▸ stepped,
    fun raised => finishIteration_of_not_live u raised ▸ stepped⟩

/-! ## The key wait -/

/-- A wait iteration: the poll, the key service and the tick accounting. -/
theorem step_of_waiting (hm : s.mode = .awaitingKey r) (hstop : s.input.stop = false) (h : step s = .next t) :
    t = (accountTick (serveWait r (chosenKey s.input.keys s.prevKeys s.input.keychoice) s.poll)).nextInput := by
  obtain ⟨_, ⟨stopped, _⟩ | ⟨_, ⟨r', hm', rfl⟩ | ⟨running, _⟩⟩⟩ := step_cases h
  · simp [hstop] at stopped
  · obtain rfl : r = r' := by simpa [hm] using hm'
    rfl
  · simp [hm] at running

/-- The key service changes the target register and the mode alone. -/
theorem serveWait_eq (r : Reg) (k : Option Key) (s : State) : serveWait r k s =
    { s with v := (serveWait r k s).v, vWritten := (serveWait r k s).vWritten, mode := (serveWait r k s).mode } := by
  cases k <;> rfl

/-- Every register but the target of the wait keeps its value and its written bit. -/
theorem serveWait_same_reg (k : Option Key) (hq : q ≠ r) : Part.same s (serveWait r k s) (.reg q) := by
  cases k with
  | none => exact ⟨rfl, rfl⟩
  | some k =>
    have written := frame_setV (w := (· = .reg r)) s rfl (keyByte k)
    exact written.parts (.reg q) (by simpa using hq)

/-- While the wait goes on no key was served, and nothing changed. -/
theorem serveWait_of_awaiting {k : Option Key} (h : (serveWait r k s).mode = .awaitingKey q) :
    serveWait r k s = s := by
  cases k with
  | none => rfl
  | some k => cases h

/-- The tick accounting and the end of the input record leave every register as it was. -/
theorem same_reg_accountTick (h : Part.same s t (.reg q)) : Part.same s (accountTick t).nextInput (.reg q) := by
  simpa [Part.same, State.getV] using h

/-- Settles O13: the key service changes the target and the mode alone, the accounting the counter, the timers and the
events alone. -/
theorem stateSurvivesTheWait : Obligations.StateSurvivesTheWait := by
  intro s t r hm hstop h
  obtain rfl := step_of_waiting hm hstop h
  generalize chosenKey s.input.keys s.prevKeys s.input.keychoice = k
  refine ⟨?_, fun q hq => same_reg_accountTick (serveWait_same_reg (s := s.poll) k hq), fun waiting => ?_⟩
  · rw [accountTick_eq, serveWait_eq]
    rfl
  · have unserved : serveWait r k s.poll = s.poll := serveWait_of_awaiting (q := r) (by simpa using waiting)
    rw [unserved]
    exact same_reg_accountTick (s := s) (t := s.poll) ⟨rfl, rfl⟩

end Sys2Proof.Machine
end

section
/-!
The statements about the bound on pc and the state after construction (spec/10_state.md R18, R28;
spec/70_reset_and_hazards.md R120): where an instruction can send pc, and which return addresses stand in the stack.
-/
namespace Sys2Proof.Machine

variable {i : Instr} {s t : State}

/-! ## Fields that the operations on bytes and registers keep -/

@[simp] theorem State.writeBytes_pc (bytes : List Byte) (s : State) (a : Nat) : (s.writeBytes a bytes).pc = s.pc := by
  rw [State.writeBytes_eq]

@[simp] theorem State.writeBytes_i (bytes : List Byte) (s : State) (a : Nat) : (s.writeBytes a bytes).i = s.i := by
  rw [State.writeBytes_eq]

@[simp] theorem State.writeBytes_status (bytes : List Byte) (s : State) (a : Nat) :
    (s.writeBytes a bytes).status = s.status := by
  rw [State.writeBytes_eq]

@[simp] theorem loadRegs_pc (bytes : List Byte) (k : Nat) (s : State) : (loadRegs k bytes s).pc = s.pc := by
  rw [loadRegs_eq]

@[simp] theorem loadRegs_i (bytes : List Byte) (k : Nat) (s : State) : (loadRegs k bytes s).i = s.i := by
  rw [loadRegs_eq]

@[simp] theorem loadRegs_status (bytes : List Byte) (k : Nat) (s : State) :
    (loadRegs k bytes s).status = s.status := by
  rw [loadRegs_eq]

@[simp] theorem shiftWrites_pc (x : Reg) (p : Byte) (out : Bool) (f : Byte → Byte) (s : State) :
    (shiftWrites x p out f s).pc = s.pc := by
  obtain ⟨b, h⟩ := shiftWrites_eq x p out f s
  rw [h]
  rfl

/-! ## pc and the live stack entries after an instruction -/

/-- The target of JP V0 is exact (R65, D36): a 12-bit address plus a byte does not wrap. -/
theorem jumpTarget_toNat (nnn : Addr12) (p : Byte) : (addrWord nnn + byteWord p).toNat = nnn.toNat + p.toNat := by
  have := nnn.isLt
  have := p.isLt
  rw [BitVec.toNat_add, addrWord_toNat, byteWord_toNat]
  omega

/-- An instruction goes on at a + 2 or a + 4, at the top stack entry, or at an address of 0x10FE or below (R56, R65). -/
theorem effect_pc (h : Effect s i t) :
    t.pc = s.pc + 2 ∨ t.pc = s.pc + 4 ∨
      (∃ j : Fin 16, j.val < s.sp.val ∧ t.pc = s.stack[j.val]'j.isLt) ∨ t.pc.toNat ≤ 0x10FE := by
  have skip (c : Bool) : (s.skipIf c).pc = s.pc + 2 ∨ (s.skipIf c).pc = s.pc + 4 := by cases c <;> simp
  cases i with
  | ret => obtain ⟨hlt, hpos, rfl⟩ := h; exact .inr (.inr (.inl ⟨⟨_, hlt⟩, Nat.sub_one_lt_of_lt hpos, rfl⟩))
  | jp nnn =>
    subst h
    have := nnn.isLt
    exact .inr (.inr (.inr (by simp; omega)))
  | call nnn =>
    obtain ⟨_, rfl⟩ := h
    have := nnn.isLt
    exact .inr (.inr (.inr (by simp; omega)))
  | jpV0 nnn =>
    subst h
    have := nnn.isLt
    have := (s.getV reg0).isLt
    exact .inr (.inr (.inr (by rw [State.jump_pc, jumpTarget_toNat]; omega)))
  | seVxKk | sneVxKk | seVxVy | sneVxVy => subst h; exact (skip _).imp_right .inl
  | skp | sknp => obtain ⟨_, rfl⟩ := h; exact (skip _).imp_right .inl
  | drw | ldBVx | ldMemVx | ldVxMem => obtain ⟨_, rfl⟩ := h; exact .inl (by simp [State.setFlag_eq])
  | _ => subst h; exact .inl (by simp [State.setFlag_eq])

/-- A stack entry live after an instruction was live before it, or is the return address of a CALL (R57, R60). -/
theorem effect_liveEntry (h : Effect s i t) (j : Fin 16) (hj : j.val < t.sp.val) :
    (j.val < s.sp.val ∧ t.stack[j.val]'j.isLt = s.stack[j.val]'j.isLt) ∨ t.stack[j.val]'j.isLt = s.pc + 2 := by
  by_cases hw : mayWriteOrStore i s .stack
  · rcases mayWriteOrStore_stack hw with rfl | ⟨nnn, rfl⟩
    · obtain ⟨_, _, rfl⟩ := h
      exact .inl ⟨Nat.lt_of_lt_of_le hj (Nat.sub_le _ 1), rfl⟩
    · obtain ⟨hlt, rfl⟩ := h
      by_cases top : s.sp.val = j.val
      · exact .inr (by simp [top])
      · have below : j.val < s.sp.val := by have : j.val < s.sp.val + 1 := hj; omega
        exact .inl ⟨below, Vector.getElem_set_ne hlt _ top⟩
  · obtain ⟨hsp, hstack⟩ : t.sp = s.sp ∧ t.stack = s.stack := (effect_frame h).parts .stack hw
    exact .inl ⟨hsp ▸ hj, by simp only [hstack]⟩

/-! ## The bound on pc (R18) -/

/-- An address of a word in memory, plus 2 or 4, does not wrap. -/
theorem word_toNat_add {a : Word} (ha : a.toNat ≤ 4094) :
    (a + 2).toNat = a.toNat + 2 ∧ (a + 4).toNat = a.toNat + 4 := by
  constructor <;> rw [BitVec.toNat_add] <;> simp <;> omega

theorem effect_pcBounded (hs : s.pcBounded) (hpc : s.pc.toNat ≤ 4094) (h : Effect s i t) : t.pcBounded := by
  obtain ⟨_, live⟩ := hs
  obtain ⟨add2, add4⟩ := word_toNat_add hpc
  refine ⟨?_, fun j hj => ?_⟩
  · rcases effect_pc h with e | e | ⟨j, hj, e⟩ | le
    · rw [e, add2]; omega
    · rw [e, add4]; omega
    · rw [e]; exact Nat.le_trans (live j hj) (by decide)
    · exact le
  · rcases effect_liveEntry h j hj with ⟨old, e⟩ | e
    · rw [e]; exact live j old
    · rw [e, add2]; omega

theorem executeWord_pcBounded {w : Word} (hs : s.pcBounded) (hpc : s.pc.toNat ≤ 4094)
    (h : executeWord w s = .next t) : t.pcBounded := by
  rcases executeWord_next h with ⟨f, rfl⟩ | ⟨i, _, he⟩ | ⟨_, rfl⟩
  · exact hs
  · exact effect_pcBounded hs hpc he
  · refine ⟨?_, hs.2⟩
    rw [State.advance_pc, State.emit_pc, (word_toNat_add hpc).1]
    omega

/-- The tick accounting reaches neither pc nor the stack. -/
theorem accountTick_pcBounded (hs : s.pcBounded) : (accountTick s).pcBounded := by
  simpa [State.pcBounded] using hs

theorem finishIteration_pcBounded (hs : s.pcBounded) : (finishIteration s).pcBounded := by
  by_cases h : s.status = .live
  · rw [finishIteration_of_live s h]
    exact accountTick_pcBounded hs
  · rw [finishIteration_of_not_live s h]
    exact hs

theorem serveWait_pcBounded (r : Reg) (k : Option Key) (hs : s.pcBounded) : (serveWait r k s).pcBounded := by
  cases k <;> exact hs

/-- Settles O25: pc moves only where a word is executed, so from 4094 or below, and every target and return address
has its bound from there. -/
theorem stepKeepsPcBounded : Obligations.StepKeepsPcBounded := by
  intro s t hs h
  obtain ⟨_, ⟨_, rfl⟩ | ⟨_, ⟨r, _, rfl⟩ | ⟨_, ⟨_, rfl⟩ | ⟨_, rfl⟩ | ⟨hpc, u, hu, rfl⟩⟩⟩⟩ := step_cases h
  case inl => exact hs
  case inr.inl => exact accountTick_pcBounded (serveWait_pcBounded (s := s.poll) r _ hs)
  case inr.inr.inl => exact hs
  case inr.inr.inr.inl => exact hs
  case inr.inr.inr.inr => exact finishIteration_pcBounded (executeWord_pcBounded (s := s.poll) hs hpc hu)

/-! ## Construction (R28, R120) -/

/-- Settles O26: memory lists nothing, the counter is 0 and so below any TICK_RATIO of at least 1, pc is 512, and no
stack entry is live. -/
theorem constructionMeetsTheInvariants : Obligations.ConstructionMeetsTheInvariants := by
  have constructed (p : Config.Params) (hp : p.wellFormed = true) :
      (State.construct p).inv ∧ (State.construct p).pcBounded := by
    have ratio : 1 ≤ p.tickRatio := of_decide_eq_true hp
    exact ⟨⟨State.construct_memWf p, ratio, ratio⟩, (by decide : (512#16).toNat ≤ 0x10FE),
      fun j hj => absurd hj (Nat.not_lt_zero j.val)⟩
  exact ⟨constructed _ (by decide), constructed⟩

/-- Settles O27: each field is read off the constructed state. -/
theorem constructionLeavesTheResetValues : Obligations.ConstructionLeavesTheResetValues := by
  intro p
  refine ⟨rfl, rfl, rfl, rfl, rfl, rfl, rfl, rfl, rfl, rfl, fun r => ?_, fun j => ?_, fun k => ⟨?_, ?_⟩, rfl⟩
  · simp [State.construct, State.getV]
  · simp [State.construct]
  · simp [State.construct, keyDown]
  · simp [State.construct, keyDown]

end Sys2Proof.Machine
end

section
/-!
The statements about the iteration and the peripheral tick (spec/60_exceptions.md R99 to R107, R112): the end of a run,
the pc bound, UNRECOGNISED words, the key wait, and the tick with its counter.
-/
namespace Sys2Proof.Machine

variable {i : Instr} {s t u : State} {w : Word} {r : Reg}

/-! ## A run that is stopped or has ended -/

/-- Settles O8: a Live step asks for a stop before anything else. -/
theorem hostStopChangesTheStatusAlone : Obligations.HostStopChangesTheStatusAlone := by
  intro s live stop
  simp only [step, runLoopStep, iterate, live, stop, if_true]
  rfl

/-- A step answers a next state from Live alone (R112). -/
theorem live_of_step (h : step s = .next t) : s.status = .live := (step_cases h).1

/-- Settles O10: a step first asks for the status, and answers a fault unless it is Live. -/
theorem quiescentStatesHaveNoStep : Obligations.QuiescentStatesHaveNoStep :=
  fun _ => ⟨fun r h => by simp only [step, runLoopStep, h], fun f h => by simp only [step, runLoopStep, h],
    fun h _ hs => h (live_of_step hs)⟩

/-! ## Executing words -/

theorem executeWord_of_error {e : DecodeError} (h : decode w = .error e) :
    executeWord w s = .next (s.emit (.diagnostic s.pc w)).advance := by
  rw [executeWord, h]
  rfl

/-- Executing a word always answers a next state (R104). -/
theorem executeWord_answers (w : Word) (s : State) : ∃ u, executeWord w s = .next u := by
  cases hd : decode w with
  | ok i =>
    obtain ⟨u, run, _⟩ := everyInstructionAnswersANextState i s
    exact ⟨u, (executeWord_of_decode hd).trans run⟩
  | error e => exact ⟨_, executeWord_of_error hd⟩

/-- Settles O7: an UNRECOGNISED word is executed as a Diagnostic and the advance, which keep the run Live; for 0x0000
the model emits the Diagnostic too. -/
theorem stepOnUnrecognisedWordIsANoOp : Obligations.StepOnUnrecognisedWordIsANoOp := by
  intro s hs hd
  have live : s.status = .live := hs.1
  have stepped : step s = .next (accountTick { s.poll with
      events := s.events ++ [.diagnostic s.pc s.fetch], pc := s.pc + 2 }).nextInput :=
    (step_of_fetches hs (executeWord_of_error hd)).trans (congrArg _ (finishIteration_of_live _ live))
  exact ⟨fun _ => stepped, fun zero => ⟨_, .inr rfl, zero ▸ stepped⟩⟩

/-- A Running iteration that the host does not stop. -/
theorem step_of_running (live : s.status = .live) (running : s.mode = .running) (noStop : s.input.stop = false) :
    step s = runningIteration s.poll := by
  simp only [step, runLoopStep, iterate, live, running, noStop, Bool.false_eq_true, if_false]

/-- Settles O9: the bound on pc is tested before the fetch, and a word executed always answers a next state. -/
theorem pcBoundComesBeforeTheFetch : Obligations.PcBoundComesBeforeTheFetch := by
  intro s live running noStop
  have polled := step_of_running live running noStop
  refine ⟨fun out => polled.trans (runningIteration_of_out s.poll out),
    fun last => polled.trans (runningIteration_of_last s.poll last), fun inside => ?_⟩
  obtain ⟨u, executed⟩ := executeWord_answers s.fetch s.poll
  exact ⟨u, executed, step_of_fetches ⟨live, running, noStop, inside⟩ executed⟩

/-! ## The key wait (R105) -/

/-- A wait iteration that the host does not stop. -/
theorem step_of_awaiting (live : s.status = .live) (noStop : s.input.stop = false)
    (awaiting : s.mode = .awaitingKey r) :
    step s = .next
      (accountTick (serveWait r (chosenKey s.input.keys s.prevKeys s.input.keychoice) s.poll)).nextInput := by
  simp only [step, runLoopStep, iterate, live, awaiting, noStop, Bool.false_eq_true, if_false]

/-- The byte of a key is its index (R22). -/
theorem keyByte_eq (k : Key) : keyByte k = BitVec.ofNat 8 k.toNat := (BitVec.ofNat_toNat 8 k).symm

/-- Settles O11: the key that ends the wait is a newly pressed one when there is one, and with none the key service
changes nothing. -/
theorem keyWaitIteration : Obligations.KeyWaitIteration := by
  intro s r live noStop awaiting
  have stepped := step_of_awaiting live noStop awaiting
  have pressed_iff := newlyPressed_iff s.input.keys s.prevKeys
  refine ⟨fun ⟨k, down, wasUp⟩ => ?_, fun held => ?_⟩
  · cases chosen : chosenKey s.input.keys s.prevKeys s.input.keychoice with
    | none =>
      have noPress := (chosenKey_none _ _ _).mp chosen k
      simp [(pressed_iff k).mpr ⟨down, wasUp⟩] at noPress
    | some c =>
      obtain ⟨pressed, choice⟩ := chosenKey_some chosen
      obtain ⟨cDown, cWasUp⟩ := (pressed_iff c).mp pressed
      rw [chosen, serveWait, keyByte_eq] at stepped
      exact ⟨c, cDown, cWasUp, fun down wasUp => choice ((pressed_iff _).mpr ⟨down, wasUp⟩), stepped⟩
  · have noPress : chosenKey s.input.keys s.prevKeys s.input.keychoice = none := by
      refine (chosenKey_none _ _ _).mpr fun k => Bool.eq_false_iff.mpr fun pressed => ?_
      obtain ⟨down, wasUp⟩ := (pressed_iff k).mp pressed
      simp [held k down] at wasUp
    rw [noPress] at stepped
    exact stepped

/-! ## The peripheral tick (R106, R107) -/

/-- The byte below a byte that is not 0. -/
theorem byte_toNat_sub_one {b : Byte} (h : b ≠ 0) : (b - 1).toNat = b.toNat - 1 := by
  bv_omega

theorem tickDelay_eq (s : State) : tickDelay s = s.setDt (tickDelay s).dt := by
  unfold tickDelay
  split <;> rfl

/-- DT floors at 0. -/
theorem tickDelay_dt (s : State) : (tickDelay s).dt.toNat = s.dt.toNat - 1 := by
  unfold tickDelay
  split
  · rename_i zero; rw [zero]; rfl
  · rename_i pos; exact byte_toNat_sub_one pos

theorem tickSound_dt (s : State) : (tickSound s).dt = s.dt := by
  unfold tickSound
  split <;> rfl

/-- ST floors at 0. -/
theorem tickSound_st (s : State) : (tickSound s).st.toNat = s.st.toNat - 1 := by
  unfold tickSound
  split
  · rename_i zero; rw [State.emit_st, zero]; rfl
  · rename_i pos; exact byte_toNat_sub_one pos

/-- The tone follows ST before its decrement (D18). -/
theorem tickSound_events (s : State) :
    (tickSound s).events = s.events ++ [if s.st.toNat = 0 then .pause else .play] := by
  unfold tickSound
  split
  · rename_i zero; rw [zero]; rfl
  · rename_i pos
    have : s.st.toNat ≠ 0 := fun h => pos (BitVec.eq_of_toNat_eq h)
    rw [if_neg this]
    rfl

/-- Settles O14: the delay part touches DT alone, the sound part ST and the tone alone, and Refresh is emitted last. -/
theorem tickCountsDownAndDrivesTheTone : Obligations.TickCountsDownAndDrivesTheTone := by
  intro s
  have delayKeeps := tickDelay_eq s
  refine ⟨?_, ?_, ?_, tick_eq s⟩
  · rw [tick, State.emit_dt, tickSound_dt, tickDelay_dt]
  · rw [tick, State.emit_st, tickSound_st, delayKeeps, State.setDt_st]
  · rw [tick, State.emit_events, tickSound_events, delayKeeps, State.setDt_events, State.setDt_st, List.append_assoc]
    rfl

/-! ## Counting the iterations (R106) -/

/-- Executing a word reaches neither the counter nor the parameters. -/
theorem executeWord_counter (h : executeWord w s = .next u) : u.subtick = s.subtick ∧ u.params = s.params := by
  rcases executeWord_next h with ⟨f, rfl⟩ | ⟨i, _, he⟩ | ⟨_, rfl⟩
  · exact ⟨rfl, rfl⟩
  · exact ⟨(effect_frame he).subtick, (effect_frame he).params⟩
  · exact ⟨rfl, rfl⟩

/-- The accounting counts modulo TICK_RATIO. -/
theorem accountTick_subtick_mod (h : s.subtick < s.params.tickRatio) :
    (accountTick s).subtick = (s.subtick + 1) % s.params.tickRatio := by
  rw [accountTick_subtick]
  split
  · rename_i full; rw [full, Nat.mod_self]
  · rw [Nat.mod_eq_of_lt (by omega)]

/-- A step that ends Live counts its iteration, in either mode (D17). -/
theorem step_counter (hs : s.subtick < s.params.tickRatio) (h : step s = .next t) (live : t.status = .live) :
    t.subtick = (s.subtick + 1) % s.params.tickRatio ∧ t.params = s.params := by
  have counted {u : State} (hu : u.subtick = s.subtick ∧ u.params = s.params) :
      (accountTick u).nextInput.subtick = (s.subtick + 1) % s.params.tickRatio ∧
        (accountTick u).nextInput.params = s.params := by
    rw [State.nextInput_subtick, State.nextInput_params, accountTick_params, ← hu.1, ← hu.2]
    rw [← hu.1, ← hu.2] at hs
    exact ⟨accountTick_subtick_mod hs, rfl⟩
  obtain ⟨_, ⟨_, rfl⟩ | ⟨_, ⟨r, _, rfl⟩ | ⟨_, ⟨_, rfl⟩ | ⟨_, rfl⟩ | ⟨_, u, hu, rfl⟩⟩⟩⟩ := step_cases h
  case inl => cases live
  case inr.inl => exact counted (by rw [serveWait_eq]; exact ⟨rfl, rfl⟩)
  case inr.inr.inl => cases live
  case inr.inr.inr.inl => cases live
  case inr.inr.inr.inr =>
    rw [finishIteration_status] at live
    rw [finishIteration_of_live u live]
    exact counted (executeWord_counter (s := s.poll) hu)

theorem runFor_succ (n : Nat) (h : step s = .next t) : runFor (n + 1) s = runFor n t := by
  rw [runFor, h]

/-- A run of at least one iteration begins with a step. -/
theorem runFor_succ_next {n : Nat} (h : runFor (n + 1) s = .next t) :
    ∃ u, step s = .next u ∧ runFor n u = .next t := by
  cases hs : step s with
  | next u => exact ⟨u, rfl, (runFor_succ n hs).symm.trans h⟩
  | fault f => rw [runFor, hs] at h; cases h
  | refused f => rw [runFor, hs] at h; cases h

/-- A run that ends Live was Live from its start. -/
theorem live_of_runFor {n : Nat} (h : runFor n s = .next t) (live : t.status = .live) : s.status = .live := by
  cases n with
  | zero => cases h; exact live
  | succ n => obtain ⟨u, hu, _⟩ := runFor_succ_next h; exact live_of_step hu

theorem runFor_counter {n : Nat} (hs : s.subtick < s.params.tickRatio) (h : runFor n s = .next t)
    (live : t.status = .live) : t.subtick = (s.subtick + n) % s.params.tickRatio ∧ t.params = s.params := by
  induction n generalizing s with
  | zero => cases h; exact ⟨(Nat.mod_eq_of_lt hs).symm, rfl⟩
  | succ n ih =>
    obtain ⟨u, first, rest⟩ := runFor_succ_next h
    obtain ⟨counted, params⟩ := step_counter hs first (live_of_runFor rest live)
    have below : u.subtick < u.params.tickRatio := by rw [counted, params]; exact Nat.mod_lt _ (by omega)
    have := ih below rest
    rwa [counted, params, Nat.mod_add_mod, Nat.add_assoc, Nat.add_comm 1 n] at this

/-- Settles O15: by induction on the run, whose every iteration before the last must have ended Live. -/
theorem everyLiveIterationCountsTowardTheTick : Obligations.EveryLiveIterationCountsTowardTheTick :=
  ⟨fun _ _ _ => runFor_counter, fun _ => ⟨fun full => if_pos full, fun below => if_neg below⟩⟩

end Sys2Proof.Machine
end

section
/-!
The statement about registers without a value (spec/10_state.md R29, spec/60_exceptions.md R109, R113): one rule per way
of reading operands, and from them every instruction.
-/
namespace Sys2Proof.Machine

variable {i : Instr} {s t : State} {rs : List RegName}

/-! ## What reading operands can answer -/

/-- From a Live state the result is no UninitialisedRead. -/
def NeverUninitialised (s : State) (o : Result) : Prop :=
  s.status = .live → ∀ (t : State) (r : RegName), o = .next t → t.status ≠ .faulted (.uninitialisedRead r)

/-- The result is UninitialisedRead exactly where one of the registers `rs` has no value, and names such a one. -/
def Reads (rs : List RegName) (s : State) (o : Result) : Prop :=
  ((∀ r ∈ rs, s.hasValue r = true) → NeverUninitialised s o) ∧
    (¬ (∀ r ∈ rs, s.hasValue r = true) →
      ∃ r ∈ rs, s.hasValue r = false ∧ o = .next (s.setStatus (.faulted (.uninitialisedRead r))))

/-! ### Results that read no further operand -/

theorem reads_nil {o : Result} (h : NeverUninitialised s o) : Reads [] s o := ⟨fun _ => h, fun h => by simp at h⟩

theorem reads_next (h : t.status = s.status) : Reads [] s (.next t) := by
  refine reads_nil fun live u r e => ?_
  cases e
  simp [h, live]

theorem reads_raise {f : FaultCode} (h : ∀ r, f ≠ .uninitialisedRead r) : Reads [] s (raise f s) := by
  refine reads_nil fun _ u r e => ?_
  cases e
  simpa using h r

theorem reads_memRead {a : Word} {n : Nat} {k : List Byte → Result}
    (h : Reads [] s (k (s.readBytes a.toNat n))) : Reads [] s (memRead a n s k) :=
  memRead_cases (P := Reads [] s) (fun _ => h) (fun _ => reads_raise (by simp))

theorem reads_memWrite {a : Word} {bytes : List Byte} {k : State → Result}
    (h : Reads [] s (k (s.writeBytes a.toNat bytes))) : Reads [] s (memWrite a bytes s k) :=
  memWrite_cases (P := Reads [] s) (fun _ => h) (fun _ => reads_raise (by simp))

/-! ### One operand more -/

/-- An operand read first: the result goes on with its value, or reports it. -/
theorem reads_cons {r : RegName} {o o' : Result} (ok : s.hasValue r = true → o = o')
    (bad : s.hasValue r = false → o = raise (.uninitialisedRead r) s) (rest : Reads rs s o') :
    Reads (r :: rs) s o := by
  cases hr : s.hasValue r with
  | false => exact ⟨fun h => by simp [hr] at h, fun _ => ⟨r, by simp, hr, bad hr⟩⟩
  | true =>
    obtain rfl := ok hr
    simp only [Reads, List.forall_mem_cons, List.exists_mem_cons_iff, hr, true_and]
    exact ⟨rest.1, fun h => .inr (rest.2 h)⟩

theorem reads_withV {x : Reg} {k : Byte → Result} (rest : Reads rs s (k (s.getV x))) :
    Reads (.v x :: rs) s (withV x s k) :=
  reads_cons (r := .v x) (withV_of_readable k) (withV_of_unreadable k) rest

theorem reads_withI {k : Word → Result} (rest : Reads rs s (k s.i)) : Reads (.i :: rs) s (withI s k) :=
  reads_cons (r := .i) (withI_of_readable k) (withI_of_unreadable k) rest

theorem reads_withVs {xs : List Reg} {k : List Byte → Result} (rest : Reads [] s (k (xs.map s.getV))) :
    Reads (xs.map .v) s (withVs xs s k) := by
  have readable_iff : (∀ r ∈ xs.map .v, s.hasValue r = true) ↔ ∀ x ∈ xs, s.vReadable x = true := List.forall_mem_map
  rw [Reads, readable_iff]
  refine ⟨fun h => ?_, fun h => ?_⟩
  · rw [withVs_of_readable k h]
    exact rest.1 (by simp)
  · exact withVs_cases (P := fun o => ∃ r ∈ xs.map .v, s.hasValue r = false ∧
      o = .next (s.setStatus (.faulted (.uninitialisedRead r)))) (fun h' => absurd h' h)
      fun x hx hv => ⟨.v x, List.mem_map_of_mem hx, hv, rfl⟩

theorem reads_withKey {x : Reg} {c : Bool → Result} (h : ∀ down, Reads [] s (c down)) :
    Reads [.v x] s (withKey x s c) := by
  refine reads_withV ?_
  split
  · exact h _
  · exact reads_raise (by simp)

/-! ## Every instruction -/

/-- Every instruction reads its operands first, and reports one without a value before anything else (R113). -/
theorem exec_reads (i : Instr) (s : State) : Reads (operandsOf i) s (exec i s) := by
  unfold exec
  cases i with
  | cls | jp | ldVxKk | ldINnn | rnd | ldVxDt | ldVxK => exact reads_next rfl
  | ret => exact pop_cases (P := Reads [] s) (fun _ _ => reads_next rfl) (fun _ => reads_raise (by simp))
  | call => exact push_cases (P := Reads [] s) (fun _ => reads_next rfl) (fun _ => reads_raise (by simp))
  | seVxKk | sneVxKk | addVxKk | ldVxVy | jpV0 | ldDtVx | ldStVx | ldFVx => exact reads_withV (reads_next rfl)
  | shr | shl => exact reads_withV (reads_next (by simp))
  | seVxVy | sneVxVy | orVxVy | andVxVy | xorVxVy | addVxVy | subVxVy | subn =>
    exact reads_withV (reads_withV (reads_next rfl))
  | skp | sknp => exact reads_withKey fun _ => reads_next rfl
  | addIVx => exact reads_withI (reads_withV (reads_next rfl))
  | drw => exact reads_withV (reads_withV (reads_withI (reads_memRead (reads_next rfl))))
  | ldBVx => exact reads_withV (reads_withI (reads_memWrite (reads_next (by simp))))
  | ldMemVx =>
    exact reads_withI (reads_withVs (reads_memWrite (reads_next (by simp))))
  | ldVxMem => exact reads_withI (reads_memRead (reads_next (by simp)))

/-- After construction no register has been written (R29). -/
theorem construct_hasValue (p : Config.Params) (r : RegName) : (State.construct p).hasValue r = p.resetZeroRegs := by
  cases r <;> simp [State.construct, State.hasValue, State.vReadable, State.iReadable]

/-- Settles O17: every instruction reads its operands before anything else, a register has a value by the parameter or
by its written bit, and a write sets that bit. -/
theorem uninitialisedReads : Obligations.UninitialisedReads := by
  refine ⟨fun i s => (exec_reads i s).2, fun i s t r live ok h => (exec_reads i s).1 ok live t r h, fun s h r => ?_,
    fun p h r => (construct_hasValue p r).trans h, fun s r b w => ⟨?_, ?_⟩⟩
  · cases r <;> simp [State.hasValue, State.vReadable, State.iReadable, h]
  · simp [State.hasValue]
  · simp [State.hasValue]

end Sys2Proof.Machine
end

section
/-!
The statements about JP V0 and the call stack (spec/40_flow_stack.md R57, R58, R60, R65): CALL, RET, and nested calls.
-/
namespace Sys2Proof.Machine

variable {s t body : State} {nnn : Addr12}

/-- Settles O31: JP V0 reads V0 alone and jumps. -/
theorem jumpWithOffsetIsExact : Obligations.JumpWithOffsetIsExact := by
  intro nnn s h
  have jumped := (exec_of_withV (i := .jpV0 nnn) (s := s)
    (k := fun p => .next (s.jump (addrWord nnn + byteWord p))) rfl rfl).1 h
  exact ⟨_, jumped, rfl, jumpTarget_toNat nnn _⟩

/-! ## CALL and RET -/

/-- A CALL with room on the stack: its target, and the stack it leaves. -/
theorem call_next (room : s.sp.val < 16) (h : exec (.call nnn) s = .next t) :
    t = { s with pc := addrWord nnn, stack := s.stack.set s.sp.val (s.pc + 2) room, sp := ⟨s.sp.val + 1, by omega⟩ } :=
  Host.Outcome.next.inj (h.symm.trans (exec_call_of_lt nnn room))

/-- Settles O32: with room on the stack CALL writes one entry, and else nothing. -/
theorem callPushesTheReturnAddress : Obligations.CallPushesTheReturnAddress := by
  intro nnn s
  refine ⟨fun room => ⟨_, exec_call_of_lt nnn room, rfl, addrWord_toNat nnn, rfl, fun j => ?_⟩,
    fun full => exec_call_of_full nnn (by omega)⟩
  rw [Vector.getElem_set]
  simp only [eq_comm]

/-- Settles O33: with an entry in use RET reads the one below SP. -/
theorem retPopsTheReturnAddress : Obligations.RetPopsTheReturnAddress := by
  intro s
  refine ⟨fun j hj => ⟨_, exec_ret_of_pos (by omega), ?_, by simp only [hj]; rfl⟩, exec_ret_of_empty⟩
  simp only [hj, Nat.add_sub_cancel]

/-- Settles O34: the entry a RET reads is the one the CALL wrote, at the SP before it. -/
theorem retContinuesAfterTheCall : Obligations.RetContinuesAfterTheCall := by
  intro nnn s t body room called hsp hstack
  obtain rfl := call_next room called
  have sp : body.sp.val = s.sp.val + 1 := congrArg Fin.val hsp
  refine ⟨_, exec_ret_of_pos (by omega), ?_, Fin.ext ?_, rfl⟩
  · simp [hstack, sp]
  · simp [sp]

/-! ## Nested calls -/

/-- As many nested calls succeed as there is room for, each with one entry more in use. -/
theorem callAll_of_room (targets : List Addr12) (s : State) (room : s.sp.val + targets.length ≤ 16) :
    ∃ t, callAll targets s = .next t ∧ t.status = s.status ∧ t.sp.val = s.sp.val + targets.length := by
  induction targets generalizing s with
  | nil => exact ⟨s, rfl, rfl, rfl⟩
  | cons nnn rest ih =>
    rw [List.length_cons] at room
    obtain ⟨⟨u, called, sameRest, _, sp, _⟩, _⟩ := (callPushesTheReturnAddress nnn s).imp_left fun h => h (by omega)
    obtain ⟨t, calls, status, sp'⟩ := ih u (by omega)
    have run : callAll (nnn :: rest) s = callAll rest u := by rw [callAll, called]
    refine ⟨t, run.trans calls, status.trans ?_, by rw [sp', sp, List.length_cons]; omega⟩
    rw [sameRest]

/-- Settles O35: 16 calls fill the stack, and a CALL with a full stack overflows. -/
theorem sixteenNestedCallsSucceed : Obligations.SixteenNestedCallsSucceed := by
  intro targets s live empty sixteen
  obtain ⟨t, calls, status, sp⟩ := callAll_of_room targets s (by omega)
  have full : t.sp.val = 16 := by omega
  exact ⟨t, calls, status.trans live, full, fun nnn => (callPushesTheReturnAddress nnn t).2 full⟩

end Sys2Proof.Machine
end

section
/-!
The statements about the shifts and RND (spec/41_alu.md R67, R76, R78, R79): the two writes of a shift, and its values
as numbers.
-/
namespace Sys2Proof.Machine

variable {s : State} {x : Reg} {out : Bool} {f : Byte → Byte}

/-! ## The two writes of a shift (R67) -/

/-- On another register than VF both writes stand. -/
theorem shiftWrites_of_ne (hx : x ≠ 0xF) :
    (shiftWrites x (s.getV x) out f s).getV x = f (s.getV x) ∧
      (shiftWrites x (s.getV x) out f s).getV 0xF = flagByte out := by
  have notF : x ≠ regF ∧ regF ≠ x := ⟨hx, fun e => hx e.symm⟩
  show _ ∧ (shiftWrites x (s.getV x) out f s).getV regF = flagByte out
  cases mode : s.params.vfShiftDestMode <;> simp [shiftWrites, mode, State.setFlag_eq, notF]

/-- On VF in sequential mode the flag is what is shifted. -/
theorem shiftWrites_sequential (p : Byte) (mode : s.params.vfShiftDestMode = .sequential) :
    (shiftWrites 0xF p out f s).getV 0xF = f (flagByte out) := by
  show (shiftWrites regF p out f s).getV regF = f (flagByte out)
  simp [shiftWrites, mode, State.setFlag_eq]

/-- In snapshot mode the value read before the instruction is what is shifted. -/
theorem shiftWrites_snapshot (p : Byte) (mode : s.params.vfShiftDestMode = .snapshot) :
    (shiftWrites x p out f s).getV x = f p := by
  simp [shiftWrites, mode]

/-! ## Shifts as numbers -/

theorem byte_shiftRight_toNat (p : Byte) : (p >>> 1).toNat = p.toNat / 2 := by
  simp [Nat.shiftRight_eq_div_pow]

theorem byte_shiftLeft_toNat (p : Byte) : (p <<< 1).toNat = 2 * p.toNat % 256 := by
  simp [Nat.shiftLeft_eq, Nat.mul_comm]

theorem flagByte_lowBit_toNat (p : Byte) : (flagByte (lowBit p)).toNat = p.toNat % 2 := by
  simp [flagByte_lowBit, Nat.and_one_is_mod]

theorem flagByte_highBit_toNat (p : Byte) : (flagByte (highBit p)).toNat = p.toNat / 128 := by
  have := p.isLt
  have oneBit : p.toNat / 128 % 2 = p.toNat / 128 := by omega
  simpa [flagByte_highBit, Nat.and_one_is_mod, Nat.shiftRight_eq_div_pow] using oneBit

/-- Settles O42: both writes stand unless they are to VF, where the parameter says what is shifted; a shifted flag of
SHR is 0, and one of SHL twice the flag. -/
theorem shiftsByOne : Obligations.ShiftsByOne := by
  intro x y s
  have shr := (exec_of_withV (i := .shr x y) (s := s)
    (k := fun p => .next (shiftWrites x p (lowBit p) (fun b => b >>> 1) s).advance) rfl rfl).1
  have shl := (exec_of_withV (i := .shl x y) (s := s)
    (k := fun p => .next (shiftWrites x p (highBit p) (fun b => b <<< 1) s).advance) rfl rfl).1
  refine ⟨fun h => ⟨_, shr h, by simp, by simp, ?_, ?_, ?_⟩, fun h => ⟨_, shl h, by simp, by simp, ?_, ?_, ?_⟩⟩
  · intro hx
    obtain ⟨value, flag⟩ := shiftWrites_of_ne (s := s) (out := lowBit (s.getV x)) (f := fun b => b >>> 1) hx
    rw [State.advance_getV, State.advance_getV, value, flag]
    exact ⟨byte_shiftRight_toNat _, flagByte_lowBit_toNat _⟩
  · rintro rfl mode
    rw [State.advance_getV, shiftWrites_sequential _ mode, byte_shiftRight_toNat, flagByte_lowBit_toNat]
    omega
  · rintro rfl mode
    rw [State.advance_getV, shiftWrites_snapshot _ mode, byte_shiftRight_toNat]
  · intro hx
    obtain ⟨value, flag⟩ := shiftWrites_of_ne (s := s) (out := highBit (s.getV x)) (f := fun b => b <<< 1) hx
    rw [State.advance_getV, State.advance_getV, value, flag]
    exact ⟨byte_shiftLeft_toNat _, flagByte_highBit_toNat _⟩
  · rintro rfl mode
    have := (s.getV 0xF).isLt
    rw [State.advance_getV, shiftWrites_sequential _ mode, byte_shiftLeft_toNat, flagByte_highBit_toNat]
    omega
  · rintro rfl mode
    rw [State.advance_getV, shiftWrites_snapshot _ mode, byte_shiftLeft_toNat]

/-- Settles O43: RND reads no register and writes V[x] alone, and a bit of its result is a bit of each operand. -/
theorem randomByteIsMasked : Obligations.RandomByteIsMasked :=
  fun _ _ _ => ⟨_, rfl, rfl, rfl, fun b => by simp, fun _ => getV_setV_advance_of_ne⟩

end Sys2Proof.Machine
end

section
/-!
The statements about memory accesses (spec/20_memory.md R35, R38, R39; spec/42_index_memory.md R84 to R86;
spec/43_display.md R89): the program load, the two stores, the block load and the draw, each by its bounds check.
-/
namespace Sys2Proof.Machine

variable {i : Instr} {s t : State} {x y : Reg}

/-! ## The bounds check (R38, R39) -/

theorem pastEnd_of_inRange {a : Word} {n : Nat} (h : a.toNat + n ≤ 4096) : pastEnd a n = false := by
  simp only [pastEnd, decide_eq_false_iff_not]
  omega

theorem pastEnd_of_past {a : Word} {n : Nat} (pos : 0 < n) (h : 4096 < a.toNat + n) : pastEnd a n = true := by
  simp only [pastEnd, decide_eq_true_eq]
  omega

theorem memRead_of_inRange {a : Word} {n : Nat} (k : List Byte → Result) (h : pastEnd a n = false) :
    memRead a n s k = k (s.readBytes a.toNat n) := by
  simp [memRead, h]

theorem memRead_of_pastEnd {a : Word} {n : Nat} (k : List Byte → Result) (h : pastEnd a n = true) :
    memRead a n s k = raise (.memoryOutOfRange a n) s := by
  simp [memRead, h]

theorem memWrite_of_inRange {a : Word} {bytes : List Byte} (k : State → Result) (h : pastEnd a bytes.length = false) :
    memWrite a bytes s k = k (s.writeBytes a.toNat bytes) := by
  simp [memWrite, h]

theorem memWrite_of_pastEnd {a : Word} {bytes : List Byte} (k : State → Result) (h : pastEnd a bytes.length = true) :
    memWrite a bytes s k = raise (.memoryOutOfRange a bytes.length) s := by
  simp [memWrite, h]

/-! ## Program load (R35) -/

theorem boot_of_tooLarge (p : Config.Params) {image : List Byte} (h : 4096 ≤ 512 + image.length) :
    boot p image = .refused (.programTooLarge image.length) := by
  have : imageWellFormed image = false := decide_eq_false (by omega)
  simp [boot, this]

theorem boot_of_fits (p : Config.Params) {image : List Byte} (h : 512 + image.length < 4096) :
    boot p image = .next ((State.construct p).writeBytes 512 image) := by
  have : imageWellFormed image = true := decide_eq_true h
  simp [boot, this]

/-- Settles O29: a program that fits is one multi-byte write to the canonical memory of construction. -/
theorem programLoad : Obligations.ProgramLoad := by
  intro p image
  have wf := State.construct_memWf p
  refine ⟨boot_of_tooLarge p, fun fits => ⟨_, boot_of_fits p fits, State.writeBytes_eq _ _ _, ?_, ?_, ?_⟩⟩
  · exact State.writeBytes_memWf image _ 512 wf fits.le
  · exact fun j hj => State.readByte_writeBytes_in image _ 512 j wf fits.le hj
  · exact fun a ha => State.readByte_writeBytes_out image _ 512 a wf fits.le ha

/-! ## The two stores (R84, R85) -/

/-- A store whose operands have values is one MemWrite of its bytes at I. -/
theorem exec_store_of_readsOk (hi : storesToMemory i = true) (ok : s.readsOk i) :
    exec i s = memWrite s.i (storedBytes i s) s fun t => .next t.advance := by
  cases i with
  | ldBVx x =>
    have hx : s.vReadable x = true := ok (.v x) (by simp [operandsOf])
    have hI : s.iReadable = true := ok .i (by simp [operandsOf])
    rw [exec, execLdBVx, withV_of_readable _ hx, withI_of_readable _ hI]
    rfl
  | ldMemVx x =>
    have hI : s.iReadable = true := ok .i (by simp [operandsOf])
    have hV : ∀ r ∈ regsTo x, s.vReadable r = true := fun r hr =>
      ok (.v r) (List.mem_cons_of_mem _ (List.mem_map_of_mem hr))
    rw [exec, execLdMemVx, withI_of_readable _ hI, withVs_of_readable _ hV]
    rfl
  | _ => cases hi

/-- A store inside the address space writes its bytes from I on and keeps I (D9). -/
theorem exec_store_of_inRange (hs : s.memWf) (hi : storesToMemory i = true) (ok : s.readsOk i)
    (inRange : s.i.toNat + (storedBytes i s).length ≤ 4096) :
    ∃ t, exec i s = .next t ∧ t.status = s.status ∧ t.pc = s.pc + 2 ∧ t.i = s.i ∧
      ∀ (j : Nat) (hj : j < (storedBytes i s).length), t.readByte (s.i.toNat + j) = (storedBytes i s)[j] := by
  have run := (exec_store_of_readsOk hi ok).trans (memWrite_of_inRange _ (pastEnd_of_inRange inRange))
  exact ⟨_, run, by simp, by simp, by simp, fun j hj => State.readByte_writeBytes_in _ s _ j hs inRange hj⟩

/-- A store past address 4095 writes nothing (D8). -/
theorem exec_store_of_past (hi : storesToMemory i = true) (ok : s.readsOk i) (pos : 0 < (storedBytes i s).length)
    (past : 4096 < s.i.toNat + (storedBytes i s).length) :
    exec i s = .next (s.setStatus (.faulted (.memoryOutOfRange s.i (storedBytes i s).length))) :=
  (exec_store_of_readsOk hi ok).trans (memWrite_of_pastEnd _ (pastEnd_of_past pos past))

/-- Each digit is a number below 10 and so fits its byte (R84). -/
theorem decimalDigits_toNat (p : Byte) :
    (decimalDigits p)[0].toNat = p.toNat / 100 ∧ (decimalDigits p)[1].toNat = p.toNat / 10 % 10 ∧
      (decimalDigits p)[2].toNat = p.toNat % 10 := by
  have := p.isLt
  refine ⟨Nat.mod_eq_of_lt ?_, Nat.mod_eq_of_lt ?_, Nat.mod_eq_of_lt ?_⟩ <;> omega

/-- Settles O45: a store of three bytes, the digits. -/
theorem decimalDigitsAreStored : Obligations.DecimalDigitsAreStored := by
  intro x s hs ok
  have length : (storedBytes (.ldBVx x) s).length = 3 := rfl
  refine ⟨fun inRange => ?_, fun past => exec_store_of_past rfl ok (by omega) (by omega)⟩
  obtain ⟨t, run, status, pc, index, stored⟩ := exec_store_of_inRange hs rfl ok (by omega)
  obtain ⟨hundreds, tens, ones⟩ := decimalDigits_toNat (s.getV x)
  exact ⟨t, run, status, pc, index, (congrArg BitVec.toNat (stored 0 (by omega))).trans hundreds,
    (congrArg BitVec.toNat (stored 1 (by omega))).trans tens, (congrArg BitVec.toNat (stored 2 (by omega))).trans ones⟩

/-- Settles O46: a store of x + 1 bytes, the registers V0 to Vx. -/
theorem registersAreStored : Obligations.RegistersAreStored := by
  intro x s hs ok
  have length : (storedBytes (.ldMemVx x) s).length = x.toNat + 1 := by simp [storedBytes]
  refine ⟨fun inRange => ?_, fun past => ?_⟩
  · obtain ⟨t, run, status, pc, index, stored⟩ := exec_store_of_inRange hs rfl ok (by omega)
    refine ⟨t, run, status, pc, index, fun k hk => ?_⟩
    rw [stored k.toNat (by omega)]
    simp [storedBytes]
  · rw [exec_store_of_past rfl ok (by omega) (by omega), length]

/-! ## The block load (R86) -/

/-- Settles O47: with I readable the load depends on its bounds check alone, and keeps I (D9). -/
theorem registersAreLoaded : Obligations.RegistersAreLoaded := by
  intro x s ok
  have readable : s.iReadable = true := ok .i (by simp [operandsOf])
  refine ⟨fun inRange => ?_, fun past => ?_⟩
  · have inside : pastEnd s.i (x.toNat + 1) = false := pastEnd_of_inRange (by omega)
    exact ⟨_, exec_ldVxMem_of_inRange readable inside, by simp, by simp, by simp,
      fun k => getV_after_ldVxMem ⟨inside, rfl⟩⟩
  · rw [exec, execLdVxMem, withI_of_readable _ readable, memRead_of_pastEnd _ (pastEnd_of_past (by omega) (by omega))]
    rfl

/-! ## The draw (R89) -/

/-- DRW with a value in each of its operands is one MemRead at I. -/
theorem exec_drw_of_readsOk {n : Nib} (ok : s.readsOk (.drw x y n)) :
    exec (.drw x y n) s = memRead s.i n.toNat s fun bytes =>
      .next ((s.emit (.draw bytes (s.getV x) (s.getV y))).setFlag s.input.collision).advance := by
  have hx : s.vReadable x = true := ok (.v x) (by simp [operandsOf])
  have hy : s.vReadable y = true := ok (.v y) (by simp [operandsOf])
  have hI : s.iReadable = true := ok .i (by simp [operandsOf])
  rw [exec, execDrw, withV_of_readable _ hx, withV_of_readable _ hy, withI_of_readable _ hI]

/-- Settles O50: an access inside the address space, or of no byte, draws what it read; VF is written last (D30). -/
theorem drawEmitsTheSprite : Obligations.DrawEmitsTheSprite := by
  intro x y n s ok
  have run := exec_drw_of_readsOk ok
  refine ⟨fun inRange => ?_, fun pos past => run.trans (memRead_of_pastEnd _ (pastEnd_of_past pos past))⟩
  have inside : pastEnd s.i n.toNat = false := by
    rcases inRange with none | le
    · rw [none]; rfl
    · exact pastEnd_of_inRange le
  refine ⟨_, run.trans (memRead_of_inRange _ inside), rfl, rfl, ?_, _, rfl, s.readBytes_length _ _,
    s.readBytes_getElem _ _⟩
  simp [State.setFlag_eq, flagByte_eq]

end Sys2Proof.Machine
end

section
/-!
The statements about the keypad instructions (spec/44_keypad_timer.md R91 to R93, R95), and the frame of the display,
keypad and timer instructions.
-/
namespace Sys2Proof.Machine

variable {s : State} {x : Reg}

/-- A register value of 15 or below is the index of the key read (R91). -/
theorem withKey_of_key {k : Key} (c : Bool → Result) (hx : s.vReadable x = true) (hk : (s.getV x).toNat = k.toNat) :
    withKey x s c = c (keyDown s.keys k) := by
  have hlt : (s.getV x).toNat < 16 := hk ▸ k.isLt
  rw [withKey, withV_of_readable _ hx, dif_pos hlt]
  simp only [hk, keyDown]

/-- A register value above 15 is no key (D12). -/
theorem withKey_of_outOfRange (c : Bool → Result) (hx : s.vReadable x = true) (hk : 15 < (s.getV x).toNat) :
    withKey x s c = .next (s.setStatus (.faulted (.keyIndexOutOfRange (s.getV x)))) := by
  rw [withKey, withV_of_readable _ hx, dif_neg (by omega)]
  rfl

theorem exec_skp (x : Reg) (s : State) : exec (.skp x) s = withKey x s fun down => .next (s.skipIf down) := rfl

theorem exec_sknp (x : Reg) (s : State) : exec (.sknp x) s = withKey x s fun down => .next (s.skipIf !down) := rfl

/-- Settles O51: both skips read the same key, and skip on opposite levels of it. -/
theorem keySkipsTestTheLevel : Obligations.KeySkipsTestTheLevel := by
  intro x s ok
  have hx : s.vReadable x = true := ok (.v x) (by simp [operandsOf])
  rw [exec_skp, exec_sknp]
  refine ⟨fun k hk => ?_, fun hk => ⟨withKey_of_outOfRange _ hx hk, withKey_of_outOfRange _ hx hk⟩⟩
  rw [withKey_of_key _ hx hk, withKey_of_key _ hx hk]
  cases keyDown s.keys k <;> exact ⟨rfl, rfl⟩

/-- Settles O53: LD Vx, K reads no register. -/
theorem waitForKeySuspends : Obligations.WaitForKeySuspends := fun _ _ => rfl

/-- Settles O57: no display, keypad or timer instruction stores, so the frame of every instruction is its exact one. -/
theorem displayKeypadTimerFrame : Obligations.DisplayKeypadTimerFrame := by
  intro i s t family h
  refine exec_frame_of_family (fun e => ?_) h
  rcases family with f | f <;> rw [f] at e <;> cases e

end Sys2Proof.Machine
end

section
/-!
The statement about the display's answer (spec/43_display.md R87): two states that differ in the coming collision answer
alone run alike, and differ after a step in VF alone.
-/
namespace Sys2Proof.Machine

variable {s t u : State} {c : Bool} {o o' p p' : Result}

/-! ## States and results that differ in the answer and VF alone -/

/-- `t` with the answer `c` in its coming input record, and other register values. -/
def State.withAnswer (c : Bool) (v : Vector Byte 16) (t : State) : State := { t.answerDraw c with v := v }

/-- `u` is `t` with the answer `c` in its coming input record, and possibly with another VF. -/
def AlikeButVf (c : Bool) (t u : State) : Prop :=
  ∃ v, u = t.withAnswer c v ∧ ∀ r : Reg, r ≠ regF → u.getV r = t.getV r

/-- Where the first result is a next state, so is the second, and the two states are alike. -/
def ResultsAlike (c : Bool) (o o' : Result) : Prop := ∀ t, o = .next t → ∃ u, o' = .next u ∧ AlikeButVf c t u

theorem alikeButVf_answerDraw (c : Bool) (t : State) : AlikeButVf c t (t.answerDraw c) :=
  ⟨t.v, rfl, fun _ _ => rfl⟩

theorem alike_next (h : AlikeButVf c t u) : ResultsAlike c (.next t) (.next u) := by
  intro t' e
  cases e
  exact ⟨u, rfl, h⟩

/-- A next state that differs in the answer alone. -/
theorem alike_answerDraw (h : u = t.answerDraw c) : ResultsAlike c (.next t) (.next u) :=
  alike_next (h ▸ alikeButVf_answerDraw c t)

theorem alike_ite {b : Prop} [Decidable b] (h : ResultsAlike c o o') (h' : ResultsAlike c p p') :
    ResultsAlike c (if b then o else p) (if b then o' else p') := by
  split
  · exact h
  · exact h'

theorem alike_dite {b : Prop} [Decidable b] {o o' : b → Result} {p p' : ¬ b → Result}
    (h : ∀ hb, ResultsAlike c (o hb) (o' hb)) (h' : ∀ hb, ResultsAlike c (p hb) (p' hb)) :
    ResultsAlike c (dite b o p) (dite b o' p') := by
  split
  · exact h _
  · exact h' _

theorem alike_raise (f : FaultCode) (s : State) : ResultsAlike c (raise f s) (raise f (s.answerDraw c)) :=
  alike_answerDraw rfl

/-! ## One rule per shared operation -/

theorem alike_withV {r : Reg} {k k' : Byte → Result} (h : ResultsAlike c (k (s.getV r)) (k' (s.getV r))) :
    ResultsAlike c (withV r s k) (withV r (s.answerDraw c) k') :=
  alike_ite h (alike_raise _ s)

theorem alike_withI {k k' : Word → Result} (h : ResultsAlike c (k s.i) (k' s.i)) :
    ResultsAlike c (withI s k) (withI (s.answerDraw c) k') :=
  alike_ite h (alike_raise _ s)

theorem alike_withVs {rs : List Reg} {k k' : List Byte → Result}
    (h : ResultsAlike c (k (rs.map s.getV)) (k' (rs.map s.getV))) :
    ResultsAlike c (withVs rs s k) (withVs rs (s.answerDraw c) k') := by
  have sameFind : rs.find? (fun r => !(s.answerDraw c).vReadable r) = rs.find? fun r => !s.vReadable r := rfl
  unfold withVs
  rw [sameFind]
  split
  · exact alike_raise _ s
  · exact h

theorem alike_withKey {x : Reg} {k k' : Bool → Result} (h : ∀ down, ResultsAlike c (k down) (k' down)) :
    ResultsAlike c (withKey x s k) (withKey x (s.answerDraw c) k') :=
  alike_withV (alike_dite (fun _ => h _) fun _ => alike_raise _ s)

theorem alike_memRead {a : Word} {n : Nat} {k k' : List Byte → Result}
    (h : ∀ bytes, ResultsAlike c (k bytes) (k' bytes)) :
    ResultsAlike c (memRead a n s k) (memRead a n (s.answerDraw c) k') :=
  alike_ite (alike_raise _ s) (h _)

/-- A store and the advance after it. -/
theorem alike_memWrite (a : Word) (bytes : List Byte) :
    ResultsAlike c (memWrite a bytes s fun t => .next t.advance)
      (memWrite a bytes (s.answerDraw c) fun t => .next t.advance) := by
  have written : (s.answerDraw c).writeBytes a.toNat bytes = (s.writeBytes a.toNat bytes).answerDraw c :=
    writeBytes_comm (f := fun s => s.answerDraw c) (fun _ _ _ => rfl) bytes s a.toNat
  refine alike_ite (alike_raise _ s) (alike_answerDraw ?_)
  rw [written]
  rfl

theorem loadRegs_answerDraw (bytes : List Byte) (k : Nat) (s : State) :
    loadRegs k bytes (s.answerDraw c) = (loadRegs k bytes s).answerDraw c := by
  induction bytes generalizing k s with
  | nil => rfl
  | cons b bs ih => exact ih (k + 1) (s.setV (BitVec.ofNat 4 k) b)

/-! ## Every instruction, and one word -/

/-- DRW alone reads the answer, and writes it to VF. -/
theorem exec_alike (c : Bool) (i : Instr) (s : State) : ResultsAlike c (exec i s) (exec i (s.answerDraw c)) := by
  unfold exec
  cases i with
  | drw =>
    refine alike_withV (alike_withV (alike_withI (alike_memRead fun _ => alike_next ⟨_, rfl, fun r hr => ?_⟩)))
    simp only [State.setFlag_eq, State.advance_getV, State.setV_getV, if_neg hr]
    rfl
  | cls | jp | ldVxKk | ldINnn | rnd | ldVxDt | ldVxK => exact alike_answerDraw rfl
  | ret => exact alike_dite (fun _ => alike_raise _ s) fun _ => alike_answerDraw rfl
  | call => exact alike_dite (fun _ => alike_answerDraw rfl) fun _ => alike_raise _ s
  | seVxKk | sneVxKk | addVxKk | ldVxVy | jpV0 | ldDtVx | ldStVx | ldFVx => exact alike_withV (alike_answerDraw rfl)
  | shr | shl => exact alike_withV (alike_answerDraw rfl)
  | seVxVy | sneVxVy | orVxVy | andVxVy | xorVxVy | addVxVy | subVxVy | subn =>
    exact alike_withV (alike_withV (alike_answerDraw rfl))
  | skp | sknp => exact alike_withKey fun _ => alike_answerDraw rfl
  | addIVx => exact alike_withI (alike_withV (alike_answerDraw rfl))
  | ldBVx => exact alike_withV (alike_withI (alike_memWrite _ _))
  | ldMemVx => exact alike_withI (alike_withVs (alike_memWrite _ _))
  | ldVxMem =>
    exact alike_withI (alike_memRead fun _ => alike_answerDraw (by rw [loadRegs_answerDraw]; rfl))

theorem executeWord_alike (c : Bool) (w : Word) (s : State) :
    ResultsAlike c (executeWord w s) (executeWord w (s.answerDraw c)) := by
  unfold executeWord
  split
  · exact exec_alike c _ s
  · exact alike_answerDraw rfl

/-! ## The end of the iteration, and a step -/

/-- `u` is `t` but for VF. -/
def SameButVf (t u : State) : Prop := u = { t with v := u.v } ∧ ∀ r : Reg, r ≠ regF → u.getV r = t.getV r

/-- The tick accounting reads neither the answer nor a register. -/
theorem tick_withAnswer (v : Vector Byte 16) (t : State) : tick (t.withAnswer c v) = (tick t).withAnswer c v := by
  have delay (t : State) : tickDelay (t.withAnswer c v) = (tickDelay t).withAnswer c v := by
    unfold tickDelay
    rw [apply_ite (State.withAnswer c v)]
    rfl
  have sound (t : State) : tickSound (t.withAnswer c v) = (tickSound t).withAnswer c v := by
    unfold tickSound
    rw [apply_ite (State.withAnswer c v)]
    rfl
  rw [tick, delay, sound]
  rfl

theorem accountTick_withAnswer (v : Vector Byte 16) (t : State) :
    accountTick (t.withAnswer c v) = (accountTick t).withAnswer c v := by
  unfold accountTick
  rw [apply_ite (State.withAnswer c v), ← tick_withAnswer]
  rfl

/-- The end of an iteration uses the answer up. -/
theorem sameButVf_nextInput (v : Vector Byte 16) (h : ∀ r : Reg, r ≠ regF → (t.withAnswer c v).getV r = t.getV r) :
    SameButVf t.nextInput (t.withAnswer c v).nextInput := ⟨rfl, h⟩

theorem sameButVf_accountTick (h : AlikeButVf c t u) :
    SameButVf (accountTick t).nextInput (accountTick u).nextInput := by
  obtain ⟨v, rfl, others⟩ := h
  rw [accountTick_withAnswer]
  have registers (r : Reg) : (accountTick t).getV r = t.getV r := by simp only [State.getV, accountTick_v]
  exact sameButVf_nextInput v fun r hr => (others r hr).trans (registers r).symm

theorem finishIteration_alike (h : AlikeButVf c t u) : SameButVf (finishIteration t) (finishIteration u) := by
  have status : u.status = t.status := by obtain ⟨v, rfl, _⟩ := h; rfl
  by_cases live : t.status = .live
  · rw [finishIteration_of_live t live, finishIteration_of_live u (status.trans live)]
    exact sameButVf_accountTick h
  · rw [finishIteration_of_not_live t live, finishIteration_of_not_live u (status ▸ live)]
    obtain ⟨v, rfl, others⟩ := h
    exact sameButVf_nextInput v others

theorem sameButVf_refl (t : State) : SameButVf t t := ⟨rfl, fun _ _ => rfl⟩

theorem step_alike (c : Bool) (h : step s = .next t) : ∃ u, step (s.answerDraw c) = .next u ∧ SameButVf t u := by
  obtain ⟨live, ⟨stop, rfl⟩ | ⟨noStop, waiting | ⟨running, ⟨out, rfl⟩ | ⟨last, rfl⟩ | ⟨inside, u, hu, rfl⟩⟩⟩⟩ :=
    step_cases h
  case inl => exact ⟨_, hostStopChangesTheStatusAlone (s.answerDraw c) live stop, sameButVf_refl _⟩
  case inr.inl =>
    obtain ⟨r, awaiting, rfl⟩ := waiting
    refine ⟨_, step_of_awaiting (s := s.answerDraw c) live noStop awaiting, sameButVf_accountTick (c := c) ?_⟩
    have served (k : Option Key) : serveWait r k (s.answerDraw c).poll = (serveWait r k s.poll).answerDraw c := by
      cases k <;> rfl
    rw [served]
    exact alikeButVf_answerDraw c _
  case inr.inr.inl =>
    have polled := step_of_running (s := s.answerDraw c) live running noStop
    exact ⟨_, polled.trans (runningIteration_of_out (s.answerDraw c).poll out), sameButVf_refl _⟩
  case inr.inr.inr.inl =>
    have polled := step_of_running (s := s.answerDraw c) live running noStop
    exact ⟨_, polled.trans (runningIteration_of_last (s.answerDraw c).poll last), sameButVf_refl _⟩
  case inr.inr.inr.inr =>
    obtain ⟨u', hu', alike⟩ := executeWord_alike c _ s.poll u hu
    exact ⟨_, step_of_fetches (s := s.answerDraw c) ⟨live, running, noStop, inside⟩ hu', finishIteration_alike alike⟩

/-- Settles O58: an answer is read by DRW alone, which writes it to VF, and is used up with the iteration. -/
theorem collisionAnswerReachesVfAlone : Obligations.CollisionAnswerReachesVfAlone :=
  fun s _ c h => step_alike (s := s.answerDraw false) c h

end Sys2Proof.Machine
end

section
/-!
The statement about the reference display (spec/43_display.md R90): a draw flips its pixels one after another, and flips
commute and undo themselves.
-/
namespace Sys2Proof.Machine

/-- The bit at `py` of a column flipped. -/
def flipBit (py : Nat) (col : List Bool) : List Bool := col.modify py (!·)

theorem flipBit_comp_self (py : Nat) : flipBit py ∘ flipBit py = id := by
  have undone : ((!·) ∘ (!·) : Bool → Bool) = id := funext Bool.not_not
  funext col
  rw [Function.comp_apply, flipBit, flipBit, List.modify_modify_eq, undone, List.modify_id]
  rfl

theorem flipBit_comm (py qy : Nat) : flipBit py ∘ flipBit qy = flipBit qy ∘ flipBit py := by
  by_cases h : py = qy
  · rw [h]
  · exact funext fun col => List.modify_modify_ne _ _ col (Ne.symm h)

/-- Pixel `p` flipped (R90). -/
def Display.flipAt (d : Display) (p : Nat × Nat) : Display := d.flip p.1 p.2

theorem flipAt_eq (d : Display) (p : Nat × Nat) : d.flipAt p = { d with pix := d.pix.modify p.1 (flipBit p.2) } := rfl

theorem flipAt_flipAt (d : Display) (p : Nat × Nat) : (d.flipAt p).flipAt p = d := by
  simp only [flipAt_eq, List.modify_modify_eq, flipBit_comp_self, List.modify_id]

/-- Two pixels may be flipped in either order, in one column or in two. -/
theorem flipAt_comm (d : Display) (p q : Nat × Nat) : (d.flipAt p).flipAt q = (d.flipAt q).flipAt p := by
  simp only [flipAt_eq]
  by_cases h : p.1 = q.1
  · rw [h, List.modify_modify_eq, List.modify_modify_eq, flipBit_comm]
  · rw [List.modify_modify_ne _ _ _ h]

/-- Flipping a list of pixels twice restores the plane: each flip of the second pass may move next to its own of the
first. -/
theorem foldl_flipAt_twice (ps : List (Nat × Nat)) (d : Display) :
    ps.foldl Display.flipAt (ps.foldl Display.flipAt d) = d := by
  have : RightCommutative Display.flipAt := ⟨flipAt_comm⟩
  induction ps with
  | nil => rfl
  | cons p ps ih => rw [List.foldl_cons_eq_apply_foldl (b := d), List.foldl_cons, flipAt_flipAt, ih]

/-- Whatever the collision answer, a draw flips its pixels. -/
theorem foldl_blit (ps : List (Nat × Nat)) (dc : Display × Bool) :
    (ps.foldl blit dc).1 = ps.foldl Display.flipAt dc.1 :=
  (List.foldl_hom Prod.fst fun _ _ => rfl).symm

theorem draw_eq (d : Display) (bytes : List Byte) (x y : Byte) :
    (d.draw bytes x y).1 = (spritePixels d.w d.h bytes x.toNat y.toNat).foldl Display.flipAt d := foldl_blit _ _

/-- A flip keeps the size of the display. -/
theorem foldl_flipAt_size (ps : List (Nat × Nat)) (d : Display) :
    (ps.foldl Display.flipAt d).w = d.w ∧ (ps.foldl Display.flipAt d).h = d.h := by
  induction ps generalizing d with
  | nil => exact ⟨rfl, rfl⟩
  | cons p ps ih => exact ih (d.flipAt p)

/-- Settles O59: the second draw reaches the same pixels, since the size is kept. -/
theorem drawingTwiceRestoresThePlane : Obligations.DrawingTwiceRestoresThePlane := by
  intro d bytes x y
  obtain ⟨w, h⟩ := foldl_flipAt_size (spritePixels d.w d.h bytes x.toNat y.toNat) d
  rw [draw_eq, draw_eq, w, h, foldl_flipAt_twice]

end Sys2Proof.Machine
end
